-- ==== Sys2Proof/Word.lean ====
section
/-! DEFINITION. The words of the machine: a byte on the data bus and registers, and a 16-bit address (spec/00_scope.md R4, R6). -/

namespace Sys2Proof

/-- A byte: a register A, X, Y, S, a memory location, a bus transfer (R4, R40). -/
abbrev Byte := BitVec 8

/-- A 16-bit address or program counter (R4, R12, R40). -/
abbrev Addr := BitVec 16

end Sys2Proof
end

