-- ==== Sys2Proof/Config.lean ====
section
/-! DEFINITION. What one instance of the hardware fixes and the spec leaves open (spec/00_scope.md R4, spec/92_eei_decisions.md "Open
parameters"). The opaque constants have no body: nothing can be proved about their values, so every theorem holds for all of them. -/

namespace Sys2Proof.Config

/-- `ANE_MAGIC` (R4, R233, decision D9): the constant ANE (0x8B) ORs into A. Open; log 10. -/
opaque aneMagic : Byte

/-- `LXA_MAGIC` (R4, R234, decision D9): the constant LXA (0xAB) ORs into A. Open; log 10. -/
opaque lxaMagic : Byte

/-- The byte the environment behind `BUS` returns when access number `n` of the run reads a device address (R41, R52, A5 "the
returned byte is any value the environment gives"). A free value; log 3. -/
opaque busByte (n : Nat) (a : Addr) : Byte

/-- The three CPU variants (R1, R4). They execute instructions identically (R290, decision D16). -/
inductive Variant where
  | ntsc
  | pal
  | dendy
  deriving DecidableEq, Repr, Inhabited

/-- `VARIANT` (R4): which of the three this instance is. Read by no rule. -/
opaque variant : Variant

/-- Master clock in hertz (R290, informative, G11): host data, read by nothing in the model. Log 22. -/
def Variant.masterClockHz : Variant → Nat
  | .ntsc => 21477272
  | .pal => 26601712
  | .dendy => 26601712

/-- CPU clock divider (R290, informative, G11): host data, read by nothing in the model. Log 22. -/
def Variant.clockDivider : Variant → Nat
  | .ntsc => 12
  | .pal => 16
  | .dendy => 15

end Sys2Proof.Config
end

