-- ==== Sys2Proof/Syntax.lean ====
section
/-! DEFINITION. Instructions as syntax: the thirteen addressing modes (spec/30_encoding.md R64), the mnemonics (R66), the operand
forms, and `Instr`, one constructor per instruction rule of files 42 to 47. A row of spec/opcode_table.json is a constructor with
an operand form of the row's mode; where mnemonic and mode do not determine the byte (ANC, the NOP variants, JAM) the constructor
carries the opcode byte `code`, and SBC 0xEB is a constructor of its own. -/

namespace Sys2Proof

/-- The thirteen addressing modes (R64, R107). -/
inductive Mode where
  | imp | acc | imm | zp | zpx | zpy | abs | abx | aby | rel | ind | izx | izy
  deriving DecidableEq, Repr

/-- The 76 mnemonics of the dispatch table (R66, R68). -/
inductive Mnemonic where
  | adc | anc | and | ane | arr | asl | asr | bcc | bcs | beq | bit | bmi | bne | bpl | brk | bvc
  | bvs | clc | cld | cli | clv | cmp | cpx | cpy | dcp | dec | dex | dey | eor | inc | inx | iny
  | isb | jam | jmp | jsr | las | lax | lda | ldx | ldy | lsr | lxa | nop | ora | pha | php | pla
  | plp | rla | rol | ror | rra | rti | rts | sax | sbc | sbx | sec | sed | sei | sha | shs | shx
  | shy | slo | sre | sta | stx | sty | tax | tay | tsx | txa | txs | tya
  deriving DecidableEq, Repr

/-- An operand in memory: the modes that name a data byte by an effective address (R101 to R106, R110, R111). -/
inductive MemArg where
  | zp (z : Byte)
  | zpx (z : Byte)
  | zpy (z : Byte)
  | abs (w : Addr)
  | abx (w : Addr)
  | aby (w : Addr)
  | izx (z : Byte)
  | izy (z : Byte)
  deriving DecidableEq, Repr

/-- The source operand of a class immediate or read instruction (R70, R85). -/
inductive Src where
  | imm (b : Byte)
  | mem (m : MemArg)
  deriving DecidableEq, Repr

/-- The operand of ASL, LSR, ROL, ROR: the accumulator or a memory byte (R87, R88). -/
inductive Dst where
  | acc
  | mem (m : MemArg)
  deriving DecidableEq, Repr

/-- The operand of JMP: the target itself, or a pointer to it (R104, R109, R200). -/
inductive JmpArg where
  | abs (w : Addr)
  | ind (w : Addr)
  deriving DecidableEq, Repr

/-- The instruction set (R65, R66). Each constructor's rule is in the comment above its group. -/
inductive Instr where
  -- 42_load_store_transfer.md: R120 to R122, R123 to R125, R126 to R131
  | lda (src : Src)
  | ldx (src : Src)
  | ldy (src : Src)
  | sta (m : MemArg)
  | stx (m : MemArg)
  | sty (m : MemArg)
  | tax
  | tay
  | txa
  | tya
  | tsx
  | txs
  -- 43_arith_logic.md: R142 to R150
  | adc (src : Src)
  | sbc (src : Src)
  | and (src : Src)
  | ora (src : Src)
  | eor (src : Src)
  | cmp (src : Src)
  | cpx (src : Src)
  | cpy (src : Src)
  | bit (m : MemArg)
  -- 44_shift_incdec.md: R160 to R169
  | asl (dst : Dst)
  | lsr (dst : Dst)
  | rol (dst : Dst)
  | ror (dst : Dst)
  | inc (m : MemArg)
  | dec (m : MemArg)
  | inx
  | iny
  | dex
  | dey
  -- 45_stack_flags.md: R180 to R191
  | pha
  | pla
  | php
  | plp
  | clc
  | sec
  | cli
  | sei
  | cld
  | sed
  | clv
  | nop
  -- 46_control.md: R200 to R213
  | jmp (t : JmpArg)
  | jsr (w : Addr)
  | rts
  | brk
  | rti
  | bpl (d : Byte)
  | bmi (d : Byte)
  | bvc (d : Byte)
  | bvs (d : Byte)
  | bcc (d : Byte)
  | bcs (d : Byte)
  | bne (d : Byte)
  | beq (d : Byte)
  -- 47_undocumented.md: R220 to R243
  | slo (m : MemArg)
  | rla (m : MemArg)
  | sre (m : MemArg)
  | rra (m : MemArg)
  | dcp (m : MemArg)
  | isb (m : MemArg)
  | lax (m : MemArg)
  | sax (m : MemArg)
  | anc (code : Byte) (b : Byte)
  | asr (b : Byte)
  | arr (b : Byte)
  | sbx (b : Byte)
  | las (w : Addr)
  | ane (b : Byte)
  | lxa (b : Byte)
  | sbcEb (b : Byte)
  | nopImp (code : Byte)
  | nopDop (code : Byte) (src : Src)
  | nopTop (code : Byte) (m : MemArg)
  | sha (m : MemArg)
  | shs (w : Addr)
  | shx (w : Addr)
  | shy (w : Addr)
  | jam (code : Byte)
  deriving DecidableEq, Repr

def MemArg.mode : MemArg → Mode
  | .zp _ => .zp
  | .zpx _ => .zpx
  | .zpy _ => .zpy
  | .abs _ => .abs
  | .abx _ => .abx
  | .aby _ => .aby
  | .izx _ => .izx
  | .izy _ => .izy

def Src.mode : Src → Mode
  | .imm _ => .imm
  | .mem m => m.mode

def Dst.mode : Dst → Mode
  | .acc => .acc
  | .mem m => m.mode

def JmpArg.mode : JmpArg → Mode
  | .abs _ => .abs
  | .ind _ => .ind

end Sys2Proof
end

