-- ==== Sys2Proof/WellFormed.lean ====
section
/-! DEFINITION. Which instruction terms are rows of the opcode table: each check is the list of modes (or of opcode bytes) that the
"Encodings" line of the instruction's rule gives (spec files 42 to 47). -/

namespace Sys2Proof

/-- The eight modes of LDA, ADC, SBC, AND, ORA, EOR, CMP (R120, R142 to R147). -/
def Mode.alu : List Mode := [.imm, .zp, .zpx, .abs, .abx, .aby, .izx, .izy]

/-- The seven modes of the fused read-modify-write opcodes (R220 to R225) and of STA (R123). -/
def Mode.fused : List Mode := [.zp, .zpx, .abs, .abx, .aby, .izx, .izy]

/-- The memory modes of the shifts and of INC, DEC (R160 to R165). -/
def Mode.shiftMem : List Mode := [.zp, .zpx, .abs, .abx]

/-- ANC's two encodings (R228). -/
def Instr.ancCodes : List Byte := [0x0B, 0x2B]

/-- The implied undocumented NOPs (R236). -/
def Instr.nopImpCodes : List Byte := [0x1A, 0x3A, 0x5A, 0x7A, 0xDA, 0xFA]

/-- The two-byte undocumented NOPs with their modes (R237). -/
def Instr.nopDopCodes : List (Mode × Byte) :=
  [(.imm, 0x80), (.imm, 0x82), (.imm, 0x89), (.imm, 0xC2), (.imm, 0xE2), (.zp, 0x04), (.zp, 0x44), (.zp, 0x64),
   (.zpx, 0x14), (.zpx, 0x34), (.zpx, 0x54), (.zpx, 0x74), (.zpx, 0xD4), (.zpx, 0xF4)]

/-- The three-byte undocumented NOPs with their modes (R238). -/
def Instr.nopTopCodes : List (Mode × Byte) :=
  [(.abs, 0x0C), (.abx, 0x1C), (.abx, 0x3C), (.abx, 0x5C), (.abx, 0x7C), (.abx, 0xDC), (.abx, 0xFC)]

/-- The twelve JAM bytes (R243). -/
def Instr.jamCodes : List Byte := [0x02, 0x12, 0x22, 0x32, 0x42, 0x52, 0x62, 0x72, 0x92, 0xB2, 0xD2, 0xF2]

/-- The instruction is a row of the opcode table: its mode and opcode byte are among those its rule lists. -/
def Instr.wellFormed : Instr → Bool
  | .lda src => Mode.alu.contains src.mode
  | .ldx src => [Mode.imm, .zp, .zpy, .abs, .aby].contains src.mode
  | .ldy src => [Mode.imm, .zp, .zpx, .abs, .abx].contains src.mode
  | .sta m => Mode.fused.contains m.mode
  | .stx m => [Mode.zp, .zpy, .abs].contains m.mode
  | .sty m => [Mode.zp, .zpx, .abs].contains m.mode
  | .tax => true
  | .tay => true
  | .txa => true
  | .tya => true
  | .tsx => true
  | .txs => true
  | .adc src => Mode.alu.contains src.mode
  | .sbc src => Mode.alu.contains src.mode
  | .and src => Mode.alu.contains src.mode
  | .ora src => Mode.alu.contains src.mode
  | .eor src => Mode.alu.contains src.mode
  | .cmp src => Mode.alu.contains src.mode
  | .cpx src => [Mode.imm, .zp, .abs].contains src.mode
  | .cpy src => [Mode.imm, .zp, .abs].contains src.mode
  | .bit m => [Mode.zp, .abs].contains m.mode
  | .asl dst => (Mode.acc :: Mode.shiftMem).contains dst.mode
  | .lsr dst => (Mode.acc :: Mode.shiftMem).contains dst.mode
  | .rol dst => (Mode.acc :: Mode.shiftMem).contains dst.mode
  | .ror dst => (Mode.acc :: Mode.shiftMem).contains dst.mode
  | .inc m => Mode.shiftMem.contains m.mode
  | .dec m => Mode.shiftMem.contains m.mode
  | .inx => true
  | .iny => true
  | .dex => true
  | .dey => true
  | .pha => true
  | .pla => true
  | .php => true
  | .plp => true
  | .clc => true
  | .sec => true
  | .cli => true
  | .sei => true
  | .cld => true
  | .sed => true
  | .clv => true
  | .nop => true
  | .jmp _ => true
  | .jsr _ => true
  | .rts => true
  | .brk => true
  | .rti => true
  | .bpl _ => true
  | .bmi _ => true
  | .bvc _ => true
  | .bvs _ => true
  | .bcc _ => true
  | .bcs _ => true
  | .bne _ => true
  | .beq _ => true
  | .slo m => Mode.fused.contains m.mode
  | .rla m => Mode.fused.contains m.mode
  | .sre m => Mode.fused.contains m.mode
  | .rra m => Mode.fused.contains m.mode
  | .dcp m => Mode.fused.contains m.mode
  | .isb m => Mode.fused.contains m.mode
  | .lax m => [Mode.zp, .zpy, .abs, .aby, .izx, .izy].contains m.mode
  | .sax m => [Mode.zp, .zpy, .abs, .izx].contains m.mode
  | .anc code _ => ancCodes.contains code
  | .asr _ => true
  | .arr _ => true
  | .sbx _ => true
  | .las _ => true
  | .ane _ => true
  | .lxa _ => true
  | .sbcEb _ => true
  | .nopImp code => nopImpCodes.contains code
  | .nopDop code src => nopDopCodes.contains (src.mode, code)
  | .nopTop code m => nopTopCodes.contains (m.mode, code)
  | .sha m => [Mode.aby, .izy].contains m.mode
  | .shs _ => true
  | .shx _ => true
  | .shy _ => true
  | .jam code => jamCodes.contains code

end Sys2Proof
end

