-- ==== Sys2Proof/Decode.lean ====
section
/-! DEFINITION. The dispatch table (spec/30_encoding.md R63 to R71), the decoder that reads it, and the encoder, which is written
separately from the "Encodings" lines of the instruction rules (files 42 to 47), so that their agreement is a check of both. -/

namespace Sys2Proof

/-- `{h, l}`: two bytes as a 16-bit word, h in the upper byte (R6, R43). -/
def word (h l : Byte) : Addr := h ++ l

/-- `hi(w) = w[15:8]` (R6). -/
def hi (w : Addr) : Byte := w.extractLsb' 8 8

/-- `lo(w) = w[7:0]` (R6). -/
def lo (w : Addr) : Byte := w.extractLsb' 0 8

/-- How many operand bytes follow the opcode in each mode (R60, R61). -/
def Mode.operandBytes : Mode → Nat
  | .imp => 0
  | .acc => 0
  | .imm => 1
  | .zp => 1
  | .zpx => 1
  | .zpy => 1
  | .abs => 2
  | .abx => 2
  | .aby => 2
  | .rel => 1
  | .ind => 2
  | .izx => 1
  | .izy => 1

/-- The instruction length of a mode: the opcode byte and the operand bytes (R61). -/
def Mode.length (m : Mode) : Nat := 1 + m.operandBytes

/-- The access class of a table entry; it selects the bus protocol (R70). -/
inductive AccessClass where
  | implied | accumulator | immediate | read | write | rmw | stack | control | unstable | halt
  deriving DecidableEq, Repr

/-- One entry of the dispatch table: mnemonic, addressing mode, base cycle count, and whether the page-cross cycle of R71 applies
(the `+` of R65). -/
structure Entry where
  mnemonic : Mnemonic
  mode : Mode
  baseCycles : Nat
  pageCross : Bool
  deriving DecidableEq, Repr

/-- An entry without the page-cross cycle. -/
def Entry.fixed (m : Mnemonic) (mode : Mode) (cycles : Nat) : Entry := ⟨m, mode, cycles, false⟩

/-- An entry marked `+` in R65. -/
def Entry.plus (m : Mnemonic) (mode : Mode) (cycles : Nat) : Entry := ⟨m, mode, cycles, true⟩

/-- Row 0x of the opcode map of R65. -/
def tableRow0 : List Entry :=
  [.fixed .brk .imp 7, .fixed .ora .izx 6, .fixed .jam .imp 0, .fixed .slo .izx 8,
   .fixed .nop .zp 3, .fixed .ora .zp 3, .fixed .asl .zp 5, .fixed .slo .zp 5,
   .fixed .php .imp 3, .fixed .ora .imm 2, .fixed .asl .acc 2, .fixed .anc .imm 2,
   .fixed .nop .abs 4, .fixed .ora .abs 4, .fixed .asl .abs 6, .fixed .slo .abs 6]

/-- Row 1x of the opcode map of R65. -/
def tableRow1 : List Entry :=
  [.fixed .bpl .rel 2, .plus .ora .izy 5, .fixed .jam .imp 0, .fixed .slo .izy 8,
   .fixed .nop .zpx 4, .fixed .ora .zpx 4, .fixed .asl .zpx 6, .fixed .slo .zpx 6,
   .fixed .clc .imp 2, .plus .ora .aby 4, .fixed .nop .imp 2, .fixed .slo .aby 7,
   .plus .nop .abx 4, .plus .ora .abx 4, .fixed .asl .abx 7, .fixed .slo .abx 7]

/-- Row 2x of the opcode map of R65. -/
def tableRow2 : List Entry :=
  [.fixed .jsr .abs 6, .fixed .and .izx 6, .fixed .jam .imp 0, .fixed .rla .izx 8,
   .fixed .bit .zp 3, .fixed .and .zp 3, .fixed .rol .zp 5, .fixed .rla .zp 5,
   .fixed .plp .imp 4, .fixed .and .imm 2, .fixed .rol .acc 2, .fixed .anc .imm 2,
   .fixed .bit .abs 4, .fixed .and .abs 4, .fixed .rol .abs 6, .fixed .rla .abs 6]

/-- Row 3x of the opcode map of R65. -/
def tableRow3 : List Entry :=
  [.fixed .bmi .rel 2, .plus .and .izy 5, .fixed .jam .imp 0, .fixed .rla .izy 8,
   .fixed .nop .zpx 4, .fixed .and .zpx 4, .fixed .rol .zpx 6, .fixed .rla .zpx 6,
   .fixed .sec .imp 2, .plus .and .aby 4, .fixed .nop .imp 2, .fixed .rla .aby 7,
   .plus .nop .abx 4, .plus .and .abx 4, .fixed .rol .abx 7, .fixed .rla .abx 7]

/-- Row 4x of the opcode map of R65. -/
def tableRow4 : List Entry :=
  [.fixed .rti .imp 6, .fixed .eor .izx 6, .fixed .jam .imp 0, .fixed .sre .izx 8,
   .fixed .nop .zp 3, .fixed .eor .zp 3, .fixed .lsr .zp 5, .fixed .sre .zp 5,
   .fixed .pha .imp 3, .fixed .eor .imm 2, .fixed .lsr .acc 2, .fixed .asr .imm 2,
   .fixed .jmp .abs 3, .fixed .eor .abs 4, .fixed .lsr .abs 6, .fixed .sre .abs 6]

/-- Row 5x of the opcode map of R65. -/
def tableRow5 : List Entry :=
  [.fixed .bvc .rel 2, .plus .eor .izy 5, .fixed .jam .imp 0, .fixed .sre .izy 8,
   .fixed .nop .zpx 4, .fixed .eor .zpx 4, .fixed .lsr .zpx 6, .fixed .sre .zpx 6,
   .fixed .cli .imp 2, .plus .eor .aby 4, .fixed .nop .imp 2, .fixed .sre .aby 7,
   .plus .nop .abx 4, .plus .eor .abx 4, .fixed .lsr .abx 7, .fixed .sre .abx 7]

/-- Row 6x of the opcode map of R65. -/
def tableRow6 : List Entry :=
  [.fixed .rts .imp 6, .fixed .adc .izx 6, .fixed .jam .imp 0, .fixed .rra .izx 8,
   .fixed .nop .zp 3, .fixed .adc .zp 3, .fixed .ror .zp 5, .fixed .rra .zp 5,
   .fixed .pla .imp 4, .fixed .adc .imm 2, .fixed .ror .acc 2, .fixed .arr .imm 2,
   .fixed .jmp .ind 5, .fixed .adc .abs 4, .fixed .ror .abs 6, .fixed .rra .abs 6]

/-- Row 7x of the opcode map of R65. -/
def tableRow7 : List Entry :=
  [.fixed .bvs .rel 2, .plus .adc .izy 5, .fixed .jam .imp 0, .fixed .rra .izy 8,
   .fixed .nop .zpx 4, .fixed .adc .zpx 4, .fixed .ror .zpx 6, .fixed .rra .zpx 6,
   .fixed .sei .imp 2, .plus .adc .aby 4, .fixed .nop .imp 2, .fixed .rra .aby 7,
   .plus .nop .abx 4, .plus .adc .abx 4, .fixed .ror .abx 7, .fixed .rra .abx 7]

/-- Row 8x of the opcode map of R65. -/
def tableRow8 : List Entry :=
  [.fixed .nop .imm 2, .fixed .sta .izx 6, .fixed .nop .imm 2, .fixed .sax .izx 6,
   .fixed .sty .zp 3, .fixed .sta .zp 3, .fixed .stx .zp 3, .fixed .sax .zp 3,
   .fixed .dey .imp 2, .fixed .nop .imm 2, .fixed .txa .imp 2, .fixed .ane .imm 2,
   .fixed .sty .abs 4, .fixed .sta .abs 4, .fixed .stx .abs 4, .fixed .sax .abs 4]

/-- Row 9x of the opcode map of R65. -/
def tableRow9 : List Entry :=
  [.fixed .bcc .rel 2, .fixed .sta .izy 6, .fixed .jam .imp 0, .fixed .sha .izy 6,
   .fixed .sty .zpx 4, .fixed .sta .zpx 4, .fixed .stx .zpy 4, .fixed .sax .zpy 4,
   .fixed .tya .imp 2, .fixed .sta .aby 5, .fixed .txs .imp 2, .fixed .shs .aby 5,
   .fixed .shy .abx 5, .fixed .sta .abx 5, .fixed .shx .aby 5, .fixed .sha .aby 5]

/-- Row Ax of the opcode map of R65. -/
def tableRowA : List Entry :=
  [.fixed .ldy .imm 2, .fixed .lda .izx 6, .fixed .ldx .imm 2, .fixed .lax .izx 6,
   .fixed .ldy .zp 3, .fixed .lda .zp 3, .fixed .ldx .zp 3, .fixed .lax .zp 3,
   .fixed .tay .imp 2, .fixed .lda .imm 2, .fixed .tax .imp 2, .fixed .lxa .imm 2,
   .fixed .ldy .abs 4, .fixed .lda .abs 4, .fixed .ldx .abs 4, .fixed .lax .abs 4]

/-- Row Bx of the opcode map of R65. -/
def tableRowB : List Entry :=
  [.fixed .bcs .rel 2, .plus .lda .izy 5, .fixed .jam .imp 0, .plus .lax .izy 5,
   .fixed .ldy .zpx 4, .fixed .lda .zpx 4, .fixed .ldx .zpy 4, .fixed .lax .zpy 4,
   .fixed .clv .imp 2, .plus .lda .aby 4, .fixed .tsx .imp 2, .plus .las .aby 4,
   .plus .ldy .abx 4, .plus .lda .abx 4, .plus .ldx .aby 4, .plus .lax .aby 4]

/-- Row Cx of the opcode map of R65. -/
def tableRowC : List Entry :=
  [.fixed .cpy .imm 2, .fixed .cmp .izx 6, .fixed .nop .imm 2, .fixed .dcp .izx 8,
   .fixed .cpy .zp 3, .fixed .cmp .zp 3, .fixed .dec .zp 5, .fixed .dcp .zp 5,
   .fixed .iny .imp 2, .fixed .cmp .imm 2, .fixed .dex .imp 2, .fixed .sbx .imm 2,
   .fixed .cpy .abs 4, .fixed .cmp .abs 4, .fixed .dec .abs 6, .fixed .dcp .abs 6]

/-- Row Dx of the opcode map of R65. -/
def tableRowD : List Entry :=
  [.fixed .bne .rel 2, .plus .cmp .izy 5, .fixed .jam .imp 0, .fixed .dcp .izy 8,
   .fixed .nop .zpx 4, .fixed .cmp .zpx 4, .fixed .dec .zpx 6, .fixed .dcp .zpx 6,
   .fixed .cld .imp 2, .plus .cmp .aby 4, .fixed .nop .imp 2, .fixed .dcp .aby 7,
   .plus .nop .abx 4, .plus .cmp .abx 4, .fixed .dec .abx 7, .fixed .dcp .abx 7]

/-- Row Ex of the opcode map of R65. -/
def tableRowE : List Entry :=
  [.fixed .cpx .imm 2, .fixed .sbc .izx 6, .fixed .nop .imm 2, .fixed .isb .izx 8,
   .fixed .cpx .zp 3, .fixed .sbc .zp 3, .fixed .inc .zp 5, .fixed .isb .zp 5,
   .fixed .inx .imp 2, .fixed .sbc .imm 2, .fixed .nop .imp 2, .fixed .sbc .imm 2,
   .fixed .cpx .abs 4, .fixed .sbc .abs 4, .fixed .inc .abs 6, .fixed .isb .abs 6]

/-- Row Fx of the opcode map of R65. -/
def tableRowF : List Entry :=
  [.fixed .beq .rel 2, .plus .sbc .izy 5, .fixed .jam .imp 0, .fixed .isb .izy 8,
   .fixed .nop .zpx 4, .fixed .sbc .zpx 4, .fixed .inc .zpx 6, .fixed .isb .zpx 6,
   .fixed .sed .imp 2, .plus .sbc .aby 4, .fixed .nop .imp 2, .fixed .isb .aby 7,
   .plus .nop .abx 4, .plus .sbc .abx 4, .fixed .inc .abx 7, .fixed .isb .abx 7]

/-- The opcode map, one list per high nibble (R65). -/
def tableRows : List (List Entry) :=
  [tableRow0, tableRow1, tableRow2, tableRow3, tableRow4, tableRow5, tableRow6, tableRow7] ++
  [tableRow8, tableRow9, tableRowA, tableRowB, tableRowC, tableRowD, tableRowE, tableRowF]

/-- `TABLE[opcode]` (R63, R82): row by the high nibble, column by the low one. The default is never taken, the table having 16 rows
of 16 (`Laws.table_total` in Laws/Table.lean). -/
def tableEntry (op : Byte) : Entry :=
  ((tableRows.getD (op.toNat / 16) []).getD (op.toNat % 16) (.fixed .brk .imp 7))

/-- The mnemonic's three letters, upper case (R68). -/
def Mnemonic.text : Mnemonic → String
  | .adc => "ADC"
  | .anc => "ANC"
  | .and => "AND"
  | .ane => "ANE"
  | .arr => "ARR"
  | .asl => "ASL"
  | .asr => "ASR"
  | .bcc => "BCC"
  | .bcs => "BCS"
  | .beq => "BEQ"
  | .bit => "BIT"
  | .bmi => "BMI"
  | .bne => "BNE"
  | .bpl => "BPL"
  | .brk => "BRK"
  | .bvc => "BVC"
  | .bvs => "BVS"
  | .clc => "CLC"
  | .cld => "CLD"
  | .cli => "CLI"
  | .clv => "CLV"
  | .cmp => "CMP"
  | .cpx => "CPX"
  | .cpy => "CPY"
  | .dcp => "DCP"
  | .dec => "DEC"
  | .dex => "DEX"
  | .dey => "DEY"
  | .eor => "EOR"
  | .inc => "INC"
  | .inx => "INX"
  | .iny => "INY"
  | .isb => "ISB"
  | .jam => "JAM"
  | .jmp => "JMP"
  | .jsr => "JSR"
  | .las => "LAS"
  | .lax => "LAX"
  | .lda => "LDA"
  | .ldx => "LDX"
  | .ldy => "LDY"
  | .lsr => "LSR"
  | .lxa => "LXA"
  | .nop => "NOP"
  | .ora => "ORA"
  | .pha => "PHA"
  | .php => "PHP"
  | .pla => "PLA"
  | .plp => "PLP"
  | .rla => "RLA"
  | .rol => "ROL"
  | .ror => "ROR"
  | .rra => "RRA"
  | .rti => "RTI"
  | .rts => "RTS"
  | .sax => "SAX"
  | .sbc => "SBC"
  | .sbx => "SBX"
  | .sec => "SEC"
  | .sed => "SED"
  | .sei => "SEI"
  | .sha => "SHA"
  | .shs => "SHS"
  | .shx => "SHX"
  | .shy => "SHY"
  | .slo => "SLO"
  | .sre => "SRE"
  | .sta => "STA"
  | .stx => "STX"
  | .sty => "STY"
  | .tax => "TAX"
  | .tay => "TAY"
  | .tsx => "TSX"
  | .txa => "TXA"
  | .txs => "TXS"
  | .tya => "TYA"

/-- The instruction's length in bytes (R61). -/
def Entry.length (e : Entry) : Nat := e.mode.length

/-- `branch_penalty` (R71): true for the eight Relative entries. -/
def Entry.branchPenalty (e : Entry) : Bool := e.mode == .rel

/-- The access class of an entry, from its mnemonic and mode (the table of R70). -/
def Entry.accessClass (e : Entry) : AccessClass :=
  if e.mnemonic == .jam then .halt
  else if [Mnemonic.sha, .shs, .shx, .shy].contains e.mnemonic then .unstable
  else if [Mnemonic.pha, .pla, .php, .plp].contains e.mnemonic then .stack
  else if [Mnemonic.jmp, .jsr, .rts, .brk, .rti].contains e.mnemonic || e.mode == .rel then .control
  else if e.mode == .imp then .implied
  else if e.mode == .acc then .accumulator
  else if e.mode == .imm then .immediate
  else if [Mnemonic.sta, .stx, .sty, .sax].contains e.mnemonic then .write
  else if [Mnemonic.asl, .lsr, .rol, .ror, .inc, .dec, .slo, .rla, .sre, .rra, .dcp, .isb].contains e.mnemonic then .rmw
  else .read

/-- The undocumented opcode bytes, by the table of R66. -/
def undocumentedCodes : List Byte :=
  [0x03, 0x07, 0x0F, 0x13, 0x17, 0x1B, 0x1F, 0x23, 0x27, 0x2F, 0x33, 0x37, 0x3B, 0x3F] ++
  [0x43, 0x47, 0x4F, 0x53, 0x57, 0x5B, 0x5F, 0x63, 0x67, 0x6F, 0x73, 0x77, 0x7B, 0x7F] ++
  [0x83, 0x87, 0x8F, 0x97, 0xA3, 0xA7, 0xAF, 0xB3, 0xB7, 0xBF] ++
  [0xC3, 0xC7, 0xCF, 0xD3, 0xD7, 0xDB, 0xDF, 0xE3, 0xE7, 0xEF, 0xF3, 0xF7, 0xFB, 0xFF] ++
  [0x0B, 0x2B, 0x4B, 0x6B, 0x8B, 0xAB, 0xCB, 0xEB, 0xBB, 0x93, 0x9F, 0x9B, 0x9C, 0x9E] ++
  [0x1A, 0x3A, 0x5A, 0x7A, 0xDA, 0xFA, 0x04, 0x44, 0x64, 0x14, 0x34, 0x54, 0x74, 0xD4, 0xF4] ++
  [0x80, 0x82, 0x89, 0xC2, 0xE2, 0x0C, 0x1C, 0x3C, 0x5C, 0x7C, 0xDC, 0xFC] ++
  [0x02, 0x12, 0x22, 0x32, 0x42, 0x52, 0x62, 0x72, 0x92, 0xB2, 0xD2, 0xF2]

/-- The opcode byte is one of the 151 documented ones (R66). -/
def documented (op : Byte) : Bool := !undocumentedCodes.contains op

/-- The memory operand of a mode, from the operand bytes `b1`, `b2` (R62). The last arm is for the modes that name no data byte; no
table entry pairs one of them with a constructor that takes a `MemArg` (`Laws.table_modes_fit` in Laws/Table.lean). -/
def MemArg.ofBytes (mode : Mode) (b1 b2 : Byte) : MemArg :=
  match mode with
  | .zp => .zp b1
  | .zpx => .zpx b1
  | .zpy => .zpy b1
  | .abs => .abs (word b2 b1)
  | .abx => .abx (word b2 b1)
  | .aby => .aby (word b2 b1)
  | .izx => .izx b1
  | .izy => .izy b1
  | .imp | .acc | .imm | .rel | .ind => .abs (word b2 b1)

/-- The source operand of a mode (R62). -/
def Src.ofBytes (mode : Mode) (b1 b2 : Byte) : Src :=
  if mode == .imm then .imm b1 else .mem (MemArg.ofBytes mode b1 b2)

/-- The operand of a shift (R62, R113). -/
def Dst.ofBytes (mode : Mode) (b1 b2 : Byte) : Dst :=
  if mode == .acc then .acc else .mem (MemArg.ofBytes mode b1 b2)

/-- The operand of JMP (R62). -/
def JmpArg.ofBytes (mode : Mode) (b1 b2 : Byte) : JmpArg :=
  if mode == .ind then .ind (word b2 b1) else .abs (word b2 b1)

/-- The instruction of a table entry with operand bytes `b1`, `b2` (R62, R82). -/
def Entry.instr (e : Entry) (op b1 b2 : Byte) : Instr :=
  match e.mnemonic with
  | .adc => .adc (Src.ofBytes e.mode b1 b2)
  | .anc => .anc op b1
  | .and => .and (Src.ofBytes e.mode b1 b2)
  | .ane => .ane b1
  | .arr => .arr b1
  | .asl => .asl (Dst.ofBytes e.mode b1 b2)
  | .asr => .asr b1
  | .bcc => .bcc b1
  | .bcs => .bcs b1
  | .beq => .beq b1
  | .bit => .bit (MemArg.ofBytes e.mode b1 b2)
  | .bmi => .bmi b1
  | .bne => .bne b1
  | .bpl => .bpl b1
  | .brk => .brk
  | .bvc => .bvc b1
  | .bvs => .bvs b1
  | .clc => .clc
  | .cld => .cld
  | .cli => .cli
  | .clv => .clv
  | .cmp => .cmp (Src.ofBytes e.mode b1 b2)
  | .cpx => .cpx (Src.ofBytes e.mode b1 b2)
  | .cpy => .cpy (Src.ofBytes e.mode b1 b2)
  | .dcp => .dcp (MemArg.ofBytes e.mode b1 b2)
  | .dec => .dec (MemArg.ofBytes e.mode b1 b2)
  | .dex => .dex
  | .dey => .dey
  | .eor => .eor (Src.ofBytes e.mode b1 b2)
  | .inc => .inc (MemArg.ofBytes e.mode b1 b2)
  | .inx => .inx
  | .iny => .iny
  | .isb => .isb (MemArg.ofBytes e.mode b1 b2)
  | .jam => .jam op
  | .jmp => .jmp (JmpArg.ofBytes e.mode b1 b2)
  | .jsr => .jsr (word b2 b1)
  | .las => .las (word b2 b1)
  | .lax => .lax (MemArg.ofBytes e.mode b1 b2)
  | .lda => .lda (Src.ofBytes e.mode b1 b2)
  | .ldx => .ldx (Src.ofBytes e.mode b1 b2)
  | .ldy => .ldy (Src.ofBytes e.mode b1 b2)
  | .lsr => .lsr (Dst.ofBytes e.mode b1 b2)
  | .lxa => .lxa b1
  | .nop =>
    if op == 0xEA then .nop
    else if e.mode == .imp then .nopImp op
    else if e.mode.operandBytes == 1 then .nopDop op (Src.ofBytes e.mode b1 b2)
    else .nopTop op (MemArg.ofBytes e.mode b1 b2)
  | .ora => .ora (Src.ofBytes e.mode b1 b2)
  | .pha => .pha
  | .php => .php
  | .pla => .pla
  | .plp => .plp
  | .rla => .rla (MemArg.ofBytes e.mode b1 b2)
  | .rol => .rol (Dst.ofBytes e.mode b1 b2)
  | .ror => .ror (Dst.ofBytes e.mode b1 b2)
  | .rra => .rra (MemArg.ofBytes e.mode b1 b2)
  | .rti => .rti
  | .rts => .rts
  | .sax => .sax (MemArg.ofBytes e.mode b1 b2)
  | .sbc => if op == 0xEB then .sbcEb b1 else .sbc (Src.ofBytes e.mode b1 b2)
  | .sbx => .sbx b1
  | .sec => .sec
  | .sed => .sed
  | .sei => .sei
  | .sha => .sha (MemArg.ofBytes e.mode b1 b2)
  | .shs => .shs (word b2 b1)
  | .shx => .shx (word b2 b1)
  | .shy => .shy (word b2 b1)
  | .slo => .slo (MemArg.ofBytes e.mode b1 b2)
  | .sre => .sre (MemArg.ofBytes e.mode b1 b2)
  | .sta => .sta (MemArg.ofBytes e.mode b1 b2)
  | .stx => .stx (MemArg.ofBytes e.mode b1 b2)
  | .sty => .sty (MemArg.ofBytes e.mode b1 b2)
  | .tax => .tax
  | .tay => .tay
  | .tsx => .tsx
  | .txa => .txa
  | .txs => .txs
  | .tya => .tya

/-- The decoder: the instruction whose opcode byte is `op`, with the bytes at the next two addresses (R60, R62, R82). It is total:
every byte has an entry (R63, R67). Operand bytes beyond the entry's length are not looked at. -/
def decode (op b1 b2 : Byte) : Instr := (tableEntry op).instr op b1 b2

/-- Why a byte string is no instruction: the opcode, or an operand byte of it, is not there. -/
inductive DecodeError where
  | noOpcode
  | missingOperand (op : Byte)
  deriving DecidableEq, Repr

/-- Decode the first instruction of a byte string and give the rest of the string back. -/
def decodeBytes : List Byte → Except DecodeError (Instr × List Byte)
  | [] => .error .noOpcode
  | op :: rest =>
    if rest.length < (tableEntry op).mode.operandBytes then .error (.missingOperand op)
    else .ok (decode op (rest.getD 0 0) (rest.getD 1 0), rest.drop (tableEntry op).mode.operandBytes)

/-- The instruction the decoder reads from the low `nbits` bits of `w`: byte 0 is the opcode, bytes 1 and 2 the operand bytes in
memory order (R60); bits from `nbits` up are 0. Refused where there is no whole opcode byte. -/
def decodeTableWord (nbits w : Nat) : Option Instr :=
  if nbits < 8 then none
  else
    let v := w % 2 ^ nbits
    some (decode (BitVec.ofNat 8 v) (BitVec.ofNat 8 (v / 256)) (BitVec.ofNat 8 (v / 65536)))

/-! ### The encoder, from the "Encodings" lines of the instruction rules -/

/-- The opcode byte of an instruction; none for a term that is no row of the table. -/
def Instr.opcode? : Instr → Option Byte
  -- R120
  | .lda src =>
    [(.imm, 0xA9), (.zp, 0xA5), (.zpx, 0xB5), (.abs, 0xAD), (.abx, 0xBD), (.aby, 0xB9), (.izx, 0xA1), (.izy, 0xB1)].lookup src.mode
  -- R121
  | .ldx src => [(.imm, 0xA2), (.zp, 0xA6), (.zpy, 0xB6), (.abs, 0xAE), (.aby, 0xBE)].lookup src.mode
  -- R122
  | .ldy src => [(.imm, 0xA0), (.zp, 0xA4), (.zpx, 0xB4), (.abs, 0xAC), (.abx, 0xBC)].lookup src.mode
  -- R123
  | .sta m =>
    [(.zp, 0x85), (.zpx, 0x95), (.abs, 0x8D), (.abx, 0x9D), (.aby, 0x99), (.izx, 0x81), (.izy, 0x91)].lookup m.mode
  -- R124
  | .stx m => [(.zp, 0x86), (.zpy, 0x96), (.abs, 0x8E)].lookup m.mode
  -- R125
  | .sty m => [(.zp, 0x84), (.zpx, 0x94), (.abs, 0x8C)].lookup m.mode
  -- R126
  | .tax => some 0xAA
  -- R127
  | .tay => some 0xA8
  -- R128
  | .txa => some 0x8A
  -- R129
  | .tya => some 0x98
  -- R130
  | .tsx => some 0xBA
  -- R131
  | .txs => some 0x9A
  -- R142
  | .adc src =>
    [(.imm, 0x69), (.zp, 0x65), (.zpx, 0x75), (.abs, 0x6D), (.abx, 0x7D), (.aby, 0x79), (.izx, 0x61), (.izy, 0x71)].lookup src.mode
  -- R143
  | .sbc src =>
    [(.imm, 0xE9), (.zp, 0xE5), (.zpx, 0xF5), (.abs, 0xED), (.abx, 0xFD), (.aby, 0xF9), (.izx, 0xE1), (.izy, 0xF1)].lookup src.mode
  -- R144
  | .and src =>
    [(.imm, 0x29), (.zp, 0x25), (.zpx, 0x35), (.abs, 0x2D), (.abx, 0x3D), (.aby, 0x39), (.izx, 0x21), (.izy, 0x31)].lookup src.mode
  -- R145
  | .ora src =>
    [(.imm, 0x09), (.zp, 0x05), (.zpx, 0x15), (.abs, 0x0D), (.abx, 0x1D), (.aby, 0x19), (.izx, 0x01), (.izy, 0x11)].lookup src.mode
  -- R146
  | .eor src =>
    [(.imm, 0x49), (.zp, 0x45), (.zpx, 0x55), (.abs, 0x4D), (.abx, 0x5D), (.aby, 0x59), (.izx, 0x41), (.izy, 0x51)].lookup src.mode
  -- R147
  | .cmp src =>
    [(.imm, 0xC9), (.zp, 0xC5), (.zpx, 0xD5), (.abs, 0xCD), (.abx, 0xDD), (.aby, 0xD9), (.izx, 0xC1), (.izy, 0xD1)].lookup src.mode
  -- R148
  | .cpx src => [(.imm, 0xE0), (.zp, 0xE4), (.abs, 0xEC)].lookup src.mode
  -- R149
  | .cpy src => [(.imm, 0xC0), (.zp, 0xC4), (.abs, 0xCC)].lookup src.mode
  -- R150
  | .bit m => [(.zp, 0x24), (.abs, 0x2C)].lookup m.mode
  -- R160
  | .asl dst => [(.acc, 0x0A), (.zp, 0x06), (.zpx, 0x16), (.abs, 0x0E), (.abx, 0x1E)].lookup dst.mode
  -- R161
  | .lsr dst => [(.acc, 0x4A), (.zp, 0x46), (.zpx, 0x56), (.abs, 0x4E), (.abx, 0x5E)].lookup dst.mode
  -- R162
  | .rol dst => [(.acc, 0x2A), (.zp, 0x26), (.zpx, 0x36), (.abs, 0x2E), (.abx, 0x3E)].lookup dst.mode
  -- R163
  | .ror dst => [(.acc, 0x6A), (.zp, 0x66), (.zpx, 0x76), (.abs, 0x6E), (.abx, 0x7E)].lookup dst.mode
  -- R164
  | .inc m => [(.zp, 0xE6), (.zpx, 0xF6), (.abs, 0xEE), (.abx, 0xFE)].lookup m.mode
  -- R165
  | .dec m => [(.zp, 0xC6), (.zpx, 0xD6), (.abs, 0xCE), (.abx, 0xDE)].lookup m.mode
  -- R166
  | .inx => some 0xE8
  -- R167
  | .iny => some 0xC8
  -- R168
  | .dex => some 0xCA
  -- R169
  | .dey => some 0x88
  -- R180
  | .pha => some 0x48
  -- R181
  | .pla => some 0x68
  -- R182
  | .php => some 0x08
  -- R183
  | .plp => some 0x28
  -- R184
  | .clc => some 0x18
  -- R185
  | .sec => some 0x38
  -- R186
  | .cli => some 0x58
  -- R187
  | .sei => some 0x78
  -- R188
  | .cld => some 0xD8
  -- R189
  | .sed => some 0xF8
  -- R190
  | .clv => some 0xB8
  -- R191
  | .nop => some 0xEA
  -- R200
  | .jmp t => [(.abs, 0x4C), (.ind, 0x6C)].lookup t.mode
  -- R201
  | .jsr _ => some 0x20
  -- R202
  | .rts => some 0x60
  -- R203
  | .brk => some 0x00
  -- R204
  | .rti => some 0x40
  -- R206
  | .bpl _ => some 0x10
  -- R207
  | .bmi _ => some 0x30
  -- R208
  | .bvc _ => some 0x50
  -- R209
  | .bvs _ => some 0x70
  -- R210
  | .bcc _ => some 0x90
  -- R211
  | .bcs _ => some 0xB0
  -- R212
  | .bne _ => some 0xD0
  -- R213
  | .beq _ => some 0xF0
  -- R220
  | .slo m =>
    [(.zp, 0x07), (.zpx, 0x17), (.abs, 0x0F), (.abx, 0x1F), (.aby, 0x1B), (.izx, 0x03), (.izy, 0x13)].lookup m.mode
  -- R221
  | .rla m =>
    [(.zp, 0x27), (.zpx, 0x37), (.abs, 0x2F), (.abx, 0x3F), (.aby, 0x3B), (.izx, 0x23), (.izy, 0x33)].lookup m.mode
  -- R222
  | .sre m =>
    [(.zp, 0x47), (.zpx, 0x57), (.abs, 0x4F), (.abx, 0x5F), (.aby, 0x5B), (.izx, 0x43), (.izy, 0x53)].lookup m.mode
  -- R223
  | .rra m =>
    [(.zp, 0x67), (.zpx, 0x77), (.abs, 0x6F), (.abx, 0x7F), (.aby, 0x7B), (.izx, 0x63), (.izy, 0x73)].lookup m.mode
  -- R224
  | .dcp m =>
    [(.zp, 0xC7), (.zpx, 0xD7), (.abs, 0xCF), (.abx, 0xDF), (.aby, 0xDB), (.izx, 0xC3), (.izy, 0xD3)].lookup m.mode
  -- R225
  | .isb m =>
    [(.zp, 0xE7), (.zpx, 0xF7), (.abs, 0xEF), (.abx, 0xFF), (.aby, 0xFB), (.izx, 0xE3), (.izy, 0xF3)].lookup m.mode
  -- R226
  | .lax m =>
    [(.zp, 0xA7), (.zpy, 0xB7), (.abs, 0xAF), (.aby, 0xBF), (.izx, 0xA3), (.izy, 0xB3)].lookup m.mode
  -- R227
  | .sax m => [(.zp, 0x87), (.zpy, 0x97), (.abs, 0x8F), (.izx, 0x83)].lookup m.mode
  -- R228
  | .anc code _ => if ancCodes.contains code then some code else none
  -- R229
  | .asr _ => some 0x4B
  -- R230
  | .arr _ => some 0x6B
  -- R231
  | .sbx _ => some 0xCB
  -- R232
  | .las _ => some 0xBB
  -- R233
  | .ane _ => some 0x8B
  -- R234
  | .lxa _ => some 0xAB
  -- R235
  | .sbcEb _ => some 0xEB
  -- R236
  | .nopImp code => if nopImpCodes.contains code then some code else none
  -- R237
  | .nopDop code src => if nopDopCodes.contains (src.mode, code) then some code else none
  -- R238
  | .nopTop code m => if nopTopCodes.contains (m.mode, code) then some code else none
  -- R239
  | .sha m => [(.aby, 0x9F), (.izy, 0x93)].lookup m.mode
  -- R240
  | .shs _ => some 0x9B
  -- R241
  | .shx _ => some 0x9E
  -- R242
  | .shy _ => some 0x9C
  -- R243
  | .jam code => if jamCodes.contains code then some code else none

/-- The opcode byte; for a term that is no row of the table, 0x00 (such a term is never decoded, log 17). -/
def Instr.opcode (i : Instr) : Byte := i.opcode?.getD 0x00

/-- The operand byte or bytes of a memory operand, low byte first (R43, R62). -/
def MemArg.bytes : MemArg → List Byte
  | .zp z => [z]
  | .zpx z => [z]
  | .zpy z => [z]
  | .abs w => [lo w, hi w]
  | .abx w => [lo w, hi w]
  | .aby w => [lo w, hi w]
  | .izx z => [z]
  | .izy z => [z]

def Src.bytes : Src → List Byte
  | .imm b => [b]
  | .mem m => m.bytes

def Dst.bytes : Dst → List Byte
  | .acc => []
  | .mem m => m.bytes

def JmpArg.bytes : JmpArg → List Byte
  | .abs w => [lo w, hi w]
  | .ind w => [lo w, hi w]

/-- The operand bytes of an instruction in memory order (R62). -/
def Instr.operand : Instr → List Byte
  | .lda src => src.bytes
  | .ldx src => src.bytes
  | .ldy src => src.bytes
  | .sta m => m.bytes
  | .stx m => m.bytes
  | .sty m => m.bytes
  | .tax => []
  | .tay => []
  | .txa => []
  | .tya => []
  | .tsx => []
  | .txs => []
  | .adc src => src.bytes
  | .sbc src => src.bytes
  | .and src => src.bytes
  | .ora src => src.bytes
  | .eor src => src.bytes
  | .cmp src => src.bytes
  | .cpx src => src.bytes
  | .cpy src => src.bytes
  | .bit m => m.bytes
  | .asl dst => dst.bytes
  | .lsr dst => dst.bytes
  | .rol dst => dst.bytes
  | .ror dst => dst.bytes
  | .inc m => m.bytes
  | .dec m => m.bytes
  | .inx => []
  | .iny => []
  | .dex => []
  | .dey => []
  | .pha => []
  | .pla => []
  | .php => []
  | .plp => []
  | .clc => []
  | .sec => []
  | .cli => []
  | .sei => []
  | .cld => []
  | .sed => []
  | .clv => []
  | .nop => []
  | .jmp t => t.bytes
  | .jsr w => [lo w, hi w]
  | .rts => []
  | .brk => []
  | .rti => []
  | .bpl b => [b]
  | .bmi b => [b]
  | .bvc b => [b]
  | .bvs b => [b]
  | .bcc b => [b]
  | .bcs b => [b]
  | .bne b => [b]
  | .beq b => [b]
  | .slo m => m.bytes
  | .rla m => m.bytes
  | .sre m => m.bytes
  | .rra m => m.bytes
  | .dcp m => m.bytes
  | .isb m => m.bytes
  | .lax m => m.bytes
  | .sax m => m.bytes
  | .anc _ b => [b]
  | .asr b => [b]
  | .arr b => [b]
  | .sbx b => [b]
  | .las w => [lo w, hi w]
  | .ane b => [b]
  | .lxa b => [b]
  | .sbcEb b => [b]
  | .nopImp _ => []
  | .nopDop _ src => src.bytes
  | .nopTop _ m => m.bytes
  | .sha m => m.bytes
  | .shs w => [lo w, hi w]
  | .shx w => [lo w, hi w]
  | .shy w => [lo w, hi w]
  | .jam _ => []

/-- The instruction's bytes in memory order: the opcode, then the operand bytes (R60). -/
def encode (i : Instr) : List Byte := i.opcode :: i.operand

/-- The instruction's mnemonic (R66). -/
def Instr.mnemonic : Instr → Mnemonic
  | .lda _ => .lda
  | .ldx _ => .ldx
  | .ldy _ => .ldy
  | .sta _ => .sta
  | .stx _ => .stx
  | .sty _ => .sty
  | .tax => .tax
  | .tay => .tay
  | .txa => .txa
  | .tya => .tya
  | .tsx => .tsx
  | .txs => .txs
  | .adc _ => .adc
  | .sbc _ => .sbc
  | .and _ => .and
  | .ora _ => .ora
  | .eor _ => .eor
  | .cmp _ => .cmp
  | .cpx _ => .cpx
  | .cpy _ => .cpy
  | .bit _ => .bit
  | .asl _ => .asl
  | .lsr _ => .lsr
  | .rol _ => .rol
  | .ror _ => .ror
  | .inc _ => .inc
  | .dec _ => .dec
  | .inx => .inx
  | .iny => .iny
  | .dex => .dex
  | .dey => .dey
  | .pha => .pha
  | .pla => .pla
  | .php => .php
  | .plp => .plp
  | .clc => .clc
  | .sec => .sec
  | .cli => .cli
  | .sei => .sei
  | .cld => .cld
  | .sed => .sed
  | .clv => .clv
  | .nop => .nop
  | .jmp _ => .jmp
  | .jsr _ => .jsr
  | .rts => .rts
  | .brk => .brk
  | .rti => .rti
  | .bpl _ => .bpl
  | .bmi _ => .bmi
  | .bvc _ => .bvc
  | .bvs _ => .bvs
  | .bcc _ => .bcc
  | .bcs _ => .bcs
  | .bne _ => .bne
  | .beq _ => .beq
  | .slo _ => .slo
  | .rla _ => .rla
  | .sre _ => .sre
  | .rra _ => .rra
  | .dcp _ => .dcp
  | .isb _ => .isb
  | .lax _ => .lax
  | .sax _ => .sax
  | .anc _ _ => .anc
  | .asr _ => .asr
  | .arr _ => .arr
  | .sbx _ => .sbx
  | .las _ => .las
  | .ane _ => .ane
  | .lxa _ => .lxa
  | .sbcEb _ => .sbc
  | .nopImp _ => .nop
  | .nopDop _ _ => .nop
  | .nopTop _ _ => .nop
  | .sha _ => .sha
  | .shs _ => .shs
  | .shx _ => .shx
  | .shy _ => .shy
  | .jam _ => .jam

/-- The instruction's addressing mode (R64). -/
def Instr.mode : Instr → Mode
  | .lda src => src.mode
  | .ldx src => src.mode
  | .ldy src => src.mode
  | .sta m => m.mode
  | .stx m => m.mode
  | .sty m => m.mode
  | .tax => .imp
  | .tay => .imp
  | .txa => .imp
  | .tya => .imp
  | .tsx => .imp
  | .txs => .imp
  | .adc src => src.mode
  | .sbc src => src.mode
  | .and src => src.mode
  | .ora src => src.mode
  | .eor src => src.mode
  | .cmp src => src.mode
  | .cpx src => src.mode
  | .cpy src => src.mode
  | .bit m => m.mode
  | .asl dst => dst.mode
  | .lsr dst => dst.mode
  | .rol dst => dst.mode
  | .ror dst => dst.mode
  | .inc m => m.mode
  | .dec m => m.mode
  | .inx => .imp
  | .iny => .imp
  | .dex => .imp
  | .dey => .imp
  | .pha => .imp
  | .pla => .imp
  | .php => .imp
  | .plp => .imp
  | .clc => .imp
  | .sec => .imp
  | .cli => .imp
  | .sei => .imp
  | .cld => .imp
  | .sed => .imp
  | .clv => .imp
  | .nop => .imp
  | .jmp t => t.mode
  | .jsr _ => .abs
  | .rts => .imp
  | .brk => .imp
  | .rti => .imp
  | .bpl _ => .rel
  | .bmi _ => .rel
  | .bvc _ => .rel
  | .bvs _ => .rel
  | .bcc _ => .rel
  | .bcs _ => .rel
  | .bne _ => .rel
  | .beq _ => .rel
  | .slo m => m.mode
  | .rla m => m.mode
  | .sre m => m.mode
  | .rra m => m.mode
  | .dcp m => m.mode
  | .isb m => m.mode
  | .lax m => m.mode
  | .sax m => m.mode
  | .anc _ _ => .imm
  | .asr _ => .imm
  | .arr _ => .imm
  | .sbx _ => .imm
  | .las _ => .aby
  | .ane _ => .imm
  | .lxa _ => .imm
  | .sbcEb _ => .imm
  | .nopImp _ => .imp
  | .nopDop _ src => src.mode
  | .nopTop _ m => m.mode
  | .sha m => m.mode
  | .shs _ => .aby
  | .shx _ => .aby
  | .shy _ => .abx
  | .jam _ => .imp

/-- The instruction's row of the dispatch table. -/
def Instr.entry (i : Instr) : Entry := tableEntry i.opcode

end Sys2Proof
end

