-- ==== Sys2Proof/Machine/State.lean ====
section
/-! DEFINITION. The machine's state as plain data (spec/10_state.md, spec/20_memory.md), what a step returned last, and reset. -/

namespace Sys2Proof.Machine

/-- The six live flags (R13). There is no B flag and no bit 5: they exist only in the packed status byte (R14, R15). -/
structure Flags where
  n : Bool
  v : Bool
  d : Bool
  i : Bool
  z : Bool
  c : Bool
  deriving DecidableEq, Repr

/-- The flags after power-on and reset, `RESET_FLAGS`: I = 1, the rest 0 (R280; the spec's decision D2, log 5). -/
def Flags.atReset : Flags := { n := false, v := false, d := false, i := true, z := false, c := false }

/-- The run state (R19): Halted is entered by JAM only and left by power-on or reset only. -/
inductive Run where
  | running
  | halted
  deriving DecidableEq, Repr

/-- The condition a step returns (R260). `unstable` records the opcode byte. -/
inductive Condition where
  | none
  | halted
  | unstable (opcode : Byte)
  deriving DecidableEq, Repr

/-- One byte transfer on the port `BUS`, with the byte that was read or written (R41, R42). -/
inductive Access where
  | read (a : Addr) (v : Byte)
  | write (a : Addr) (v : Byte)
  deriving DecidableEq, Repr

/-- The plain memory behind `BUS` (the reference memory RAM64K, R57): address and byte pairs, addresses strictly rising, no byte
equal to `Memory.unlisted`. -/
abbrev Memory := List Host.Cell

/-- What an address that memory does not list reads as. DESIGN CHOICE, unsafe: the core does not initialise memory (R280) and the
spec gives RAM no initial content; 0x00 is the convention of spec/95_test_vectors.md. Log 4. -/
def Memory.unlisted : Byte := 0x00

/-- Addresses strictly rise, starting above every address below `low`, and each entry is a 16-bit address with a byte that differs
from `Memory.unlisted`. -/
def Memory.wfFrom (low : Nat) : Memory → Bool
  | [] => true
  | (a, v) :: m => decide (low ≤ a) && decide (a < 65536) && v != Memory.unlisted && Memory.wfFrom (a + 1) m

/-- The canonical form of memory: equal memories are equal lists. -/
def Memory.wf (m : Memory) : Bool := Memory.wfFrom 0 m

/-- A range of addresses, both ends included, whose bytes the environment supplies and plain memory does not (R41, R52). -/
structure Region where
  first : Addr
  last : Addr
  deriving DecidableEq, Repr

/-- The machine. The first eight fields are the spec's (R10 to R19, R40); `devices` says what is behind `BUS` (R41, log 2); the last
four hold what the step just taken returned (R5, log 1). -/
structure State where
  /-- A (R10). -/
  a : Byte
  /-- X (R10). -/
  x : Byte
  /-- Y (R10). -/
  y : Byte
  /-- S, the stack pointer (R11). -/
  sp : Byte
  /-- PC (R12). -/
  pc : Addr
  /-- N V D I Z C (R13). -/
  flags : Flags
  /-- Running or Halted (R19). -/
  run : Run
  /-- Plain memory (R40, R57). -/
  mem : Memory
  /-- Addresses that are not plain memory. -/
  devices : List Region
  /-- How many bus accesses have been made: the number of the next one (log 3). -/
  busCount : Nat
  /-- The bus accesses of the last step or reset, in order (R5, R51). -/
  accesses : List Access
  /-- The cycle count the last step returned (R92). -/
  cycles : Nat
  /-- The condition the last step returned (R260). -/
  cond : Condition
  deriving DecidableEq, Repr

/-- The reasons a step stops with a fault: there is none. "there is no fault, no stuck state and no refusal inside the core" (R91);
no access fault (R41), no trap (R260, R263). -/
inductive Fault where
  deriving DecidableEq, Repr

/-- The reasons an instruction has no meaning. -/
inductive Refusal where
  /-- Raised by `exec` for an instruction the model gives no meaning yet; no arm raises it. Safe: the machine stops. -/
  | notModelled (mnemonic : String)
  deriving DecidableEq, Repr

/-- The machine right after power-on with nothing listed in memory (R280, R283): A = X = Y = 0, S = 0xFD, I set, Running, PC the word
at 0xFFFC (0x0000, since both bytes are unlisted; log 6), the two vector reads made, no cycles reported. -/
def State.reset : State where
  a := 0x00
  x := 0x00
  y := 0x00
  sp := 0xFD
  pc := 0x0000
  flags := Flags.atReset
  run := .running
  mem := []
  devices := []
  busCount := 2
  accesses := [.read 0xFFFC 0x00, .read 0xFFFD 0x00]
  cycles := 0
  cond := .none

end Sys2Proof.Machine
end

