-- ==== Sys2Proof/Machine/Flags.lean ====
section
/-! DEFINITION. The status byte and every flag computation: pack, unpack, set_zn (spec/10_state.md R15 to R17), adc_core, cmp_core
(spec/43_arith_logic.md R140, R141), the shifts and INC/DEC (spec/44_shift_incdec.md R160 to R165). -/

namespace Sys2Proof.Machine

/-- A flag as bit `i` of a byte. -/
def flagBit (b : Bool) (i : Nat) : Byte := if b then 1#8 <<< i else 0#8

/-- The carry as a number 0 or 1 (R6: "A flag is a single bit; `C` used in arithmetic means its value 0 or 1"). -/
def carryIn (n : Nat) (c : Bool) : BitVec n := if c then 1#n else 0#n

/-- `pack()`: N V 1 0 D I Z C, bit 7 down to bit 0 (R15, C1). -/
def Flags.pack (f : Flags) : Byte :=
  flagBit f.n 7 ||| flagBit f.v 6 ||| 0x20 ||| flagBit f.d 3 ||| flagBit f.i 2 ||| flagBit f.z 1 ||| flagBit f.c 0

/-- `unpack(b)`: the six live flags from bits 7, 6, 3, 2, 1, 0; bits 4 and 5 are ignored (R16). -/
def Flags.unpack (b : Byte) : Flags where
  n := b.getLsbD 7
  v := b.getLsbD 6
  d := b.getLsbD 3
  i := b.getLsbD 2
  z := b.getLsbD 1
  c := b.getLsbD 0

/-- The byte PHP and BRK push: `pack() | 0x10`, the B position set (R182, R203). -/
def Flags.pushed (f : Flags) : Byte := f.pack ||| 0x10

/-- The flag part of `set_zn(v)`: Z iff v is 0, N bit 7 of v (R17). -/
def Flags.setZn (f : Flags) (v : Byte) : Flags := { f with z := v == 0x00, n := v.getLsbD 7 }

/-- What `adc_core` returns: the result byte and four flags (R140). -/
structure AluResult where
  r : Byte
  c : Bool
  v : Bool
  z : Bool
  n : Bool
  deriving DecidableEq, Repr

/-- `adc_core(a, m, cin)` (R140): the 9-bit sum, its low byte, its bit 8 as carry, and signed overflow. Flag D is not read (R151). -/
def adcCore (a m : Byte) (cin : Bool) : AluResult :=
  let sum : BitVec 9 := a.setWidth 9 + m.setWidth 9 + carryIn 9 cin
  let r : Byte := sum.setWidth 8
  { r := r
    c := sum.getLsbD 8
    v := (~~~(a ^^^ m) &&& (a ^^^ r)).getLsbD 7
    z := r == 0x00
    n := r.getLsbD 7 }

/-- The flags with C, V, Z, N as `adc_core` gave them (R142). -/
def Flags.setAlu (f : Flags) (u : AluResult) : Flags := { f with c := u.c, v := u.v, z := u.z, n := u.n }

/-- `cmp_core(r, m)` (R141): C iff r ≥ m unsigned; Z, N from the difference; V, D, I kept. -/
def cmpCore (r m : Byte) (f : Flags) : Flags := { f.setZn (r - m) with c := decide (m.toNat ≤ r.toNat) }

/-- `asl8` (R160). -/
def asl8 (old : Byte) (f : Flags) : Byte × Flags :=
  let new := old <<< 1
  (new, { f.setZn new with c := old.getLsbD 7 })

/-- `lsr8` (R161). -/
def lsr8 (old : Byte) (f : Flags) : Byte × Flags :=
  let new := old >>> 1
  (new, { f.setZn new with c := old.getLsbD 0 })

/-- `rol8` (R162): the incoming C goes to bit 0. -/
def rol8 (old : Byte) (f : Flags) : Byte × Flags :=
  let new := (old <<< 1) ||| carryIn 8 f.c
  (new, { f.setZn new with c := old.getLsbD 7 })

/-- `ror8` (R163): the incoming C goes to bit 7. -/
def ror8 (old : Byte) (f : Flags) : Byte × Flags :=
  let new := (old >>> 1) ||| (carryIn 8 f.c <<< 7)
  (new, { f.setZn new with c := old.getLsbD 0 })

/-- `inc8` (R164). -/
def inc8 (old : Byte) (f : Flags) : Byte × Flags := (old + 1, f.setZn (old + 1))

/-- `dec8` (R165). -/
def dec8 (old : Byte) (f : Flags) : Byte × Flags := (old - 1, f.setZn (old - 1))

end Sys2Proof.Machine
end

