-- ==== Sys2Proof/Machine/Ops.lean ====
section
/-! DEFINITION. The named operations: plain memory, the port `BUS`, registers, instruction fetch, the stack engine, what a step
returns, and the one exception entry of the core with the return from it (spec/20_memory.md, spec/40_step_and_dispatch.md,
spec/46_control.md R203, R204). -/

namespace Sys2Proof.Machine

/-! ### Plain memory (RAM64K, R57) -/

/-- The byte at an address: the listed one, else `Memory.unlisted`. -/
def Memory.read : Memory → Nat → Byte
  | [], _ => Memory.unlisted
  | (b, v) :: m, a => if a = b then v else Memory.read m a

/-- Replace the byte at an address, keeping the canonical form. -/
def Memory.write : Memory → Nat → Byte → Memory
  | [], a, v => if v = Memory.unlisted then [] else [(a, v)]
  | (b, w) :: m, a, v =>
    if a < b then (if v = Memory.unlisted then (b, w) :: m else (a, v) :: (b, w) :: m)
    else if a = b then (if v = Memory.unlisted then m else (b, v) :: m)
    else (b, w) :: Memory.write m a v

/-! ### The port (R41, R42) -/

/-- The address lies in a device region. -/
def State.isDevice (s : State) (a : Addr) : Bool :=
  s.devices.any fun r => decide (r.first.toNat ≤ a.toNat) && decide (a.toNat ≤ r.last.toNat)

/-- The byte a read of `a` returns when `k` more accesses are made first and none of them writes `a`: the plain memory's byte, or
for a device the free value of that access number (R41, R52; log 2, 3). -/
def State.busValue (s : State) (k : Nat) (a : Addr) : Byte :=
  if s.isDevice a then Config.busByte (s.busCount + k) a else s.mem.read a.toNat

/-- A byte read off the port and the state after the read. -/
structure Got where
  val : Byte
  st : State
  deriving DecidableEq, Repr

/-- `MemRead(a, 1)`: one bus read (R7, R42). -/
def busRead (a : Addr) (s : State) : Got :=
  ⟨s.busValue 0 a, { s with busCount := s.busCount + 1, accesses := s.accesses ++ [.read a (s.busValue 0 a)] }⟩

/-- `MemWrite(a, 1, v)`: one bus write (R7, R42). Plain memory takes the byte; a device does with it what it likes (log 3). -/
def busWrite (a : Addr) (v : Byte) (s : State) : State :=
  { s with
    mem := if s.isDevice a then s.mem else s.mem.write a.toNat v
    busCount := s.busCount + 1
    accesses := s.accesses ++ [.write a v] }

/-- `Fetch8()` (R81). -/
def fetch8 (s : State) : Got :=
  let g := busRead s.pc s
  ⟨g.val, { g.st with pc := g.st.pc + 1 }⟩

/-- A step begins: what the last one returned is gone. -/
def State.beginStep (s : State) : State := { s with accesses := [], cycles := 0, cond := .none }

/-- The opcode fetch, the first bus access of every step (R81). -/
def fetchOpcode (s : State) : State := (fetch8 s.beginStep).st

/-- Fetch `n` operand bytes (R84); their values are the instruction's operand already (R62, log 18). -/
def fetchOperand : Nat → State → State
  | 0, s => s
  | n + 1, s => fetchOperand n (fetch8 s).st

/-! ### Registers and flags -/

def State.setA (s : State) (v : Byte) : State := { s with a := v }
def State.setX (s : State) (v : Byte) : State := { s with x := v }
def State.setY (s : State) (v : Byte) : State := { s with y := v }
def State.setSp (s : State) (v : Byte) : State := { s with sp := v }
def State.setPcTo (s : State) (w : Addr) : State := { s with pc := w }
def State.setFlags (s : State) (f : Flags) : State := { s with flags := f }

/-- `set_zn(v)` on the machine's flags (R17). -/
def State.setZn (s : State) (v : Byte) : State := { s with flags := s.flags.setZn v }

/-! ### The stack engine (R46 to R50) -/

/-- `StackAddr(S)` (R46). -/
def stackAddr (sp : Byte) : Addr := 0x0100 ||| sp.setWidth 16

/-- `Push8(v)` (R47): store, then decrement. -/
def push8 (v : Byte) (s : State) : State := (busWrite (stackAddr s.sp) v s).setSp (s.sp - 1)

/-- `Pull8()` (R48): increment, then load. -/
def pull8 (s : State) : Got := busRead (stackAddr (s.sp + 1)) (s.setSp (s.sp + 1))

/-- `Push16(w)` (R49): the high byte first. -/
def push16 (w : Addr) (s : State) : State := push8 (lo w) (push8 (hi w) s)

/-- A word pulled off the stack and the state after. -/
structure GotWord where
  val : Addr
  st : State
  deriving DecidableEq, Repr

/-- `Pull16()` (R50): the low byte first. -/
def pull16 (s : State) : GotWord :=
  let l := pull8 s
  let h := pull8 l.st
  ⟨word h.val l.val, h.st⟩

/-- A 16-bit word read low byte first from `a` and then `b` (R43). -/
def readWord (a b : Addr) (s : State) : GotWord :=
  let l := busRead a s
  let h := busRead b l.st
  ⟨word h.val l.val, h.st⟩

/-! ### Vectors, exception entry and return -/

/-- The NMI vector's address (R45); read by no rule (R266). -/
def nmiVector : Addr := 0xFFFA

/-- The RESET vector's address (R45, R283). -/
def resetVector : Addr := 0xFFFC

/-- The IRQ/BRK vector's address (R45, R203). -/
def brkVector : Addr := 0xFFFE

/-- The core's one exception entry (R203, R265): push the return address, push the status byte with B set and I as it was, set I,
load PC from a vector, low byte first. -/
def takeException (ret vector : Addr) (s : State) : State :=
  let s1 := push16 ret s
  let s2 := push8 s1.flags.pushed s1
  let s3 := s2.setFlags { s2.flags with i := true }
  let g := readWord vector (vector + 1) s3
  g.st.setPcTo g.val

/-- The return from it (R204, R269): pull the six flags, then PC with no adjustment. -/
def returnFromException (s : State) : State :=
  let p := pull8 s
  let g := pull16 (p.st.setFlags (Flags.unpack p.val))
  g.st.setPcTo g.val

/-! ### What a step returns (R5, R92, R260) -/

/-- The cycle count of a completed instruction (R92). -/
def cyclesOf (e : Entry) (crossed taken otherPage : Bool) : Nat :=
  e.baseCycles + (if e.pageCross && crossed then 1 else 0) + (if e.branchPenalty && taken then 1 else 0)
    + (if e.branchPenalty && taken && otherPage then 1 else 0)

/-- Two addresses lie in different pages (R92, R114). -/
def otherPage (a b : Addr) : Bool := hi a != hi b

/-- A completed instruction returns (None, cycles) (R80). -/
def State.finish (s : State) (cycles : Nat) : State := { s with cycles := cycles, cond := .none }

/-- Screening of an unstable opcode (R83, R262): only the opcode has been read, PC is back at pc0, nothing else changes, and the step
returns (Unstable(opcode), 0). -/
def signalUnstable (opcode : Byte) (s : State) : State :=
  { fetchOpcode s with pc := s.pc, cond := .unstable opcode, cycles := 0 }

/-- Screening of a JAM opcode (R83, R243, R261): as above, and the run state becomes Halted; the step returns (Halted, 0). -/
def signalHalted (s : State) : State :=
  { fetchOpcode s with pc := s.pc, run := .halted, cond := .halted, cycles := 0 }

/-- A step taken in run state Halted (R90): no bus access, no change; it returns (Halted, 0). -/
def haltedStep (s : State) : State := { s.beginStep with cond := .halted }

/-- The instruction at PC: the opcode byte and the two bytes after it, as the port would return them (R60, R81, R82; log 18). -/
def State.nextInstr (s : State) : Instr :=
  decode (s.busValue 0 s.pc) (s.busValue 1 (s.pc + 1)) (s.busValue 2 (s.pc + 2))

end Sys2Proof.Machine
end

