-- ==== Sys2Proof/Machine/Operands.lean ====
section
/-! DEFINITION. The address resolver (spec/41_addressing.md R100 to R115) and the bus protocols of the access classes
(spec/40_step_and_dispatch.md R85 to R89). Every protocol starts from the state at pc0 and ends in the state the step returns. -/

namespace Sys2Proof.Machine

/-- What `Resolve(mode)` returns for a memory operand: `ea`, `crossed`, and the state after the operand bytes and pointer bytes have
been read (R84, R107). -/
structure Resolved where
  ea : Addr
  crossed : Bool
  st : State
  deriving DecidableEq, Repr

/-- An index added to a 16-bit base: the sum wraps at 16 bits, and `crossed` says whether the high byte changed (R105, R114). -/
def Resolved.indexed (base : Addr) (index : Byte) (s : State) : Resolved :=
  let ea := base + index.setWidth 16
  ⟨ea, otherPage base ea, s⟩

/-- An address in page 0 (`zext_16`, R6, R101). -/
def zeroPage (z : Byte) : Addr := z.setWidth 16

/-- `Resolve` for the modes with a memory operand (R101 to R106, R110, R111). -/
def resolve (m : MemArg) (s : State) : Resolved :=
  match m with
  | .zp z => ⟨zeroPage z, false, fetchOperand 1 s⟩
  | .zpx z => ⟨zeroPage (z + s.x), false, fetchOperand 1 s⟩
  | .zpy z => ⟨zeroPage (z + s.y), false, fetchOperand 1 s⟩
  | .abs w => ⟨w, false, fetchOperand 2 s⟩
  | .abx w => .indexed w s.x (fetchOperand 2 s)
  | .aby w => .indexed w s.y (fetchOperand 2 s)
  | .izx z =>
    let p := z + s.x
    let g := readWord (zeroPage p) (zeroPage (p + 1)) (fetchOperand 1 s)
    ⟨g.val, false, g.st⟩
  | .izy z =>
    let g := readWord (zeroPage z) (zeroPage (z + 1)) (fetchOperand 1 s)
    .indexed g.val s.y g.st

/-- The second pointer address of an indirect JMP: the high byte of the pointer's page is kept, the page-wrap defect (R109). -/
def jmpPointerHigh (base : Addr) : Addr := (base &&& 0xFF00) ||| ((base + 1) &&& 0x00FF)

/-- The jump target of JMP: the operand word (R104), or the word read through the pointer (R109). -/
def resolveJmp (t : JmpArg) (s : State) : GotWord :=
  match t with
  | .abs w => ⟨w, fetchOperand 2 s⟩
  | .ind w => readWord w (jmpPointerHigh w) (fetchOperand 2 s)

/-- The operand byte M of class immediate or read, with `crossed` and the state after the read. -/
structure Loaded where
  val : Byte
  crossed : Bool
  st : State
  deriving DecidableEq, Repr

/-- The operand byte M (R85, R100): the fetched byte, or one read at `ea`. -/
def load (src : Src) (s : State) : Loaded :=
  match src with
  | .imm b => ⟨b, false, fetchOperand 1 s⟩
  | .mem m =>
    let r := resolve m s
    let g := busRead r.ea r.st
    ⟨g.val, r.crossed, g.st⟩

/-- Classes immediate and read (R85): get M, run the body `f`, return. -/
def runRead (i : Instr) (src : Src) (f : Byte → State → State) (s : State) : Host.Outcome State Fault Refusal :=
  let l := load src (fetchOpcode s)
  .next ((f l.val l.st).finish (cyclesOf i.entry l.crossed false false))

/-- Class write (R86): one write of the byte `v` computes, no read of `ea`. -/
def runWrite (i : Instr) (m : MemArg) (v : State → Byte) (s : State) : Host.Outcome State Fault Refusal :=
  let r := resolve m (fetchOpcode s)
  .next ((busWrite r.ea (v r.st) r.st).finish (cyclesOf i.entry r.crossed false false))

/-- Class rmw (R87): read, write the unmodified byte, compute the new byte with `f` (which also changes registers and flags), write
the new byte. -/
def runRmw (i : Instr) (m : MemArg) (f : Byte → State → Got) (s : State) : Host.Outcome State Fault Refusal :=
  let r := resolve m (fetchOpcode s)
  let g := busRead r.ea r.st
  let n := f g.val (busWrite r.ea g.val g.st)
  .next ((busWrite r.ea n.val n.st).finish (cyclesOf i.entry r.crossed false false))

/-- Class accumulator (R88): `f` applied to A, the result to A; no bus access after the opcode fetch. -/
def runAcc (i : Instr) (f : Byte → State → Got) (s : State) : Host.Outcome State Fault Refusal :=
  let s1 := fetchOpcode s
  let n := f s1.a s1
  .next ((n.st.setA n.val).finish (cyclesOf i.entry false false false))

/-- A shift on A or on memory (R87, R88). -/
def runShift (i : Instr) (dst : Dst) (f : Byte → State → Got) (s : State) : Host.Outcome State Fault Refusal :=
  match dst with
  | .acc => runAcc i f s
  | .mem m => runRmw i m f s

/-- Classes implied, stack and control with no operand byte (R89): the body `f` runs after the opcode fetch. -/
def runImplied (i : Instr) (f : State → State) (s : State) : Host.Outcome State Fault Refusal :=
  .next ((f (fetchOpcode s)).finish (cyclesOf i.entry false false false))

/-- A byte-to-byte function with flag effects, as an rmw or accumulator body: it changes the flags and nothing else (R160 to R165). -/
def shiftBody (f : Byte → Flags → Byte × Flags) (old : Byte) (s : State) : Got :=
  ⟨(f old s.flags).1, s.setFlags (f old s.flags).2⟩

/-- A branch (R108, R205): both bytes are fetched; if the condition holds PC becomes pc0 + 2 plus the sign-extended displacement. -/
def runBranch (i : Instr) (cond : Flags → Bool) (d : Byte) (s : State) : Host.Outcome State Fault Refusal :=
  let s2 := fetchOperand 1 (fetchOpcode s)
  let target := s2.pc + d.signExtend 16
  let taken := cond s2.flags
  .next ((s2.setPcTo (if taken then target else s2.pc)).finish (cyclesOf i.entry false taken (otherPage s2.pc target)))

end Sys2Proof.Machine
end

