-- ==== Sys2Proof/Machine/Control.lean ====
section
/-! DEFINITION. Jumps, subroutines, BRK, RTI and branches (spec/46_control.md R200 to R213). -/

namespace Sys2Proof.Machine

/-- JMP (R200): `PC <- ea`, the operand word or the word read through the pointer. -/
def execJmp (t : JmpArg) (s : State) : Host.Outcome State Fault Refusal :=
  let g := resolveJmp t (fetchOpcode s)
  .next ((g.st.setPcTo g.val).finish (cyclesOf (Instr.jmp t).entry false false false))

/-- JSR (R201): push pc0 + 2 (PC - 1 after the three bytes), high byte first, and jump. -/
def execJsr (w : Addr) (s : State) : Host.Outcome State Fault Refusal :=
  let s3 := fetchOperand 2 (fetchOpcode s)
  .next (((push16 (s3.pc - 1) s3).setPcTo w).finish (cyclesOf (Instr.jsr w).entry false false false))

/-- The body of RTS (R202). -/
def returnFromSubroutine (s : State) : State :=
  let g := pull16 s
  g.st.setPcTo (g.val + 1)

/-- RTS (R202): `PC <- (Pull16() + 1) & 0xFFFF`. -/
def execRts (s : State) : Host.Outcome State Fault Refusal :=
  runImplied .rts (fun s => returnFromSubroutine s) s

/-- BRK (R203): the exception entry through 0xFFFE with return address pc0 + 2 (PC + 1 after the opcode fetch). -/
def execBrk (s : State) : Host.Outcome State Fault Refusal :=
  runImplied .brk (fun s => takeException (s.pc + 1) brkVector s) s

/-- RTI (R204). -/
def execRti (s : State) : Host.Outcome State Fault Refusal :=
  runImplied .rti (fun s => returnFromException s) s

/-- BPL (R205, R206): condition N = 0. -/
def execBpl (d : Byte) (s : State) : Host.Outcome State Fault Refusal :=
  runBranch (.bpl d) (fun f => !f.n) d s

/-- BMI (R205, R207): condition N = 1. -/
def execBmi (d : Byte) (s : State) : Host.Outcome State Fault Refusal :=
  runBranch (.bmi d) (fun f => f.n) d s

/-- BVC (R205, R208): condition V = 0. -/
def execBvc (d : Byte) (s : State) : Host.Outcome State Fault Refusal :=
  runBranch (.bvc d) (fun f => !f.v) d s

/-- BVS (R205, R209): condition V = 1. -/
def execBvs (d : Byte) (s : State) : Host.Outcome State Fault Refusal :=
  runBranch (.bvs d) (fun f => f.v) d s

/-- BCC (R205, R210): condition C = 0. -/
def execBcc (d : Byte) (s : State) : Host.Outcome State Fault Refusal :=
  runBranch (.bcc d) (fun f => !f.c) d s

/-- BCS (R205, R211): condition C = 1. -/
def execBcs (d : Byte) (s : State) : Host.Outcome State Fault Refusal :=
  runBranch (.bcs d) (fun f => f.c) d s

/-- BNE (R205, R212): condition Z = 0. -/
def execBne (d : Byte) (s : State) : Host.Outcome State Fault Refusal :=
  runBranch (.bne d) (fun f => !f.z) d s

/-- BEQ (R205, R213): condition Z = 1. -/
def execBeq (d : Byte) (s : State) : Host.Outcome State Fault Refusal :=
  runBranch (.beq d) (fun f => f.z) d s

end Sys2Proof.Machine
end

