-- ==== Sys2Proof/Machine/LoadStore.lean ====
section
/-! DEFINITION. Loads, stores and register transfers (spec/42_load_store_transfer.md R120 to R131). -/

namespace Sys2Proof.Machine

/-! ### Loads -/

/-- LDA (R120): `A <- set_zn(M)`. -/
def execLda (src : Src) (s : State) : Host.Outcome State Fault Refusal :=
  runRead (.lda src) src (fun m s => (s.setA m).setZn m) s

/-- LDX (R121): `X <- set_zn(M)`. -/
def execLdx (src : Src) (s : State) : Host.Outcome State Fault Refusal :=
  runRead (.ldx src) src (fun m s => (s.setX m).setZn m) s

/-- LDY (R122): `Y <- set_zn(M)`. -/
def execLdy (src : Src) (s : State) : Host.Outcome State Fault Refusal :=
  runRead (.ldy src) src (fun m s => (s.setY m).setZn m) s

/-! ### Stores -/

/-- STA (R123): `MemWrite(ea, 1, A)`. -/
def execSta (m : MemArg) (s : State) : Host.Outcome State Fault Refusal :=
  runWrite (.sta m) m (fun s => s.a) s

/-- STX (R124): `MemWrite(ea, 1, X)`. -/
def execStx (m : MemArg) (s : State) : Host.Outcome State Fault Refusal :=
  runWrite (.stx m) m (fun s => s.x) s

/-- STY (R125): `MemWrite(ea, 1, Y)`. -/
def execSty (m : MemArg) (s : State) : Host.Outcome State Fault Refusal :=
  runWrite (.sty m) m (fun s => s.y) s

/-! ### Transfers -/

/-- TAX (R126): `X <- set_zn(A)`. -/
def execTax (s : State) : Host.Outcome State Fault Refusal :=
  runImplied .tax (fun s => (s.setX s.a).setZn s.a) s

/-- TAY (R127): `Y <- set_zn(A)`. -/
def execTay (s : State) : Host.Outcome State Fault Refusal :=
  runImplied .tay (fun s => (s.setY s.a).setZn s.a) s

/-- TXA (R128): `A <- set_zn(X)`. -/
def execTxa (s : State) : Host.Outcome State Fault Refusal :=
  runImplied .txa (fun s => (s.setA s.x).setZn s.x) s

/-- TYA (R129): `A <- set_zn(Y)`. -/
def execTya (s : State) : Host.Outcome State Fault Refusal :=
  runImplied .tya (fun s => (s.setA s.y).setZn s.y) s

/-- TSX (R130): `X <- set_zn(S)`. -/
def execTsx (s : State) : Host.Outcome State Fault Refusal :=
  runImplied .tsx (fun s => (s.setX s.sp).setZn s.sp) s

/-- TXS (R131): `S <- X`; no flag. -/
def execTxs (s : State) : Host.Outcome State Fault Refusal :=
  runImplied .txs (fun s => s.setSp s.x) s

end Sys2Proof.Machine
end

