-- ==== Sys2Proof/Machine/Shift.lean ====
section
/-! DEFINITION. Shifts, rotates, increments and decrements (spec/44_shift_incdec.md R160 to R169). -/

namespace Sys2Proof.Machine

/-- ASL (R160). -/
def execAsl (dst : Dst) (s : State) : Host.Outcome State Fault Refusal :=
  runShift (.asl dst) dst (shiftBody asl8) s

/-- LSR (R161). -/
def execLsr (dst : Dst) (s : State) : Host.Outcome State Fault Refusal :=
  runShift (.lsr dst) dst (shiftBody lsr8) s

/-- ROL (R162). -/
def execRol (dst : Dst) (s : State) : Host.Outcome State Fault Refusal :=
  runShift (.rol dst) dst (shiftBody rol8) s

/-- ROR (R163). -/
def execRor (dst : Dst) (s : State) : Host.Outcome State Fault Refusal :=
  runShift (.ror dst) dst (shiftBody ror8) s

/-- INC (R164). -/
def execInc (m : MemArg) (s : State) : Host.Outcome State Fault Refusal :=
  runRmw (.inc m) m (shiftBody inc8) s

/-- DEC (R165). -/
def execDec (m : MemArg) (s : State) : Host.Outcome State Fault Refusal :=
  runRmw (.dec m) m (shiftBody dec8) s

/-- INX (R166): `X <- set_zn((X + 1) & 0xFF)`. -/
def execInx (s : State) : Host.Outcome State Fault Refusal :=
  runImplied .inx (fun s => (s.setX (s.x + 1)).setZn (s.x + 1)) s

/-- INY (R167): `Y <- set_zn((Y + 1) & 0xFF)`. -/
def execIny (s : State) : Host.Outcome State Fault Refusal :=
  runImplied .iny (fun s => (s.setY (s.y + 1)).setZn (s.y + 1)) s

/-- DEX (R168): `X <- set_zn((X - 1) & 0xFF)`. -/
def execDex (s : State) : Host.Outcome State Fault Refusal :=
  runImplied .dex (fun s => (s.setX (s.x - 1)).setZn (s.x - 1)) s

/-- DEY (R169): `Y <- set_zn((Y - 1) & 0xFF)`. -/
def execDey (s : State) : Host.Outcome State Fault Refusal :=
  runImplied .dey (fun s => (s.setY (s.y - 1)).setZn (s.y - 1)) s

end Sys2Proof.Machine
end

