-- ==== Sys2Proof/Machine/StackFlags.lean ====
section
/-! DEFINITION. Stack instructions, flag instructions and NOP (spec/45_stack_flags.md R180 to R191). -/

namespace Sys2Proof.Machine

/-- PHA (R180): `Push8(A)`. -/
def execPha (s : State) : Host.Outcome State Fault Refusal :=
  runImplied .pha (fun s => push8 s.a s) s

/-- The body of PLA (R181). -/
def pullA (s : State) : State :=
  let g := pull8 s
  (g.st.setA g.val).setZn g.val

/-- PLA (R181): `A <- set_zn(Pull8())`. -/
def execPla (s : State) : Host.Outcome State Fault Refusal :=
  runImplied .pla (fun s => pullA s) s

/-- PHP (R182): `Push8(pack() | 0x10)`. -/
def execPhp (s : State) : Host.Outcome State Fault Refusal :=
  runImplied .php (fun s => push8 s.flags.pushed s) s

/-- The body of PLP (R183). -/
def pullFlags (s : State) : State :=
  let g := pull8 s
  g.st.setFlags (Flags.unpack g.val)

/-- PLP (R183): `unpack(Pull8())`. -/
def execPlp (s : State) : Host.Outcome State Fault Refusal :=
  runImplied .plp (fun s => pullFlags s) s

/-- CLC (R184): `C <- 0`. -/
def execClc (s : State) : Host.Outcome State Fault Refusal :=
  runImplied .clc (fun s => s.setFlags { s.flags with c := false }) s

/-- SEC (R185): `C <- 1`. -/
def execSec (s : State) : Host.Outcome State Fault Refusal :=
  runImplied .sec (fun s => s.setFlags { s.flags with c := true }) s

/-- CLI (R186): `I <- 0`. -/
def execCli (s : State) : Host.Outcome State Fault Refusal :=
  runImplied .cli (fun s => s.setFlags { s.flags with i := false }) s

/-- SEI (R187): `I <- 1`. -/
def execSei (s : State) : Host.Outcome State Fault Refusal :=
  runImplied .sei (fun s => s.setFlags { s.flags with i := true }) s

/-- CLD (R188): `D <- 0`. -/
def execCld (s : State) : Host.Outcome State Fault Refusal :=
  runImplied .cld (fun s => s.setFlags { s.flags with d := false }) s

/-- SED (R189): `D <- 1`. -/
def execSed (s : State) : Host.Outcome State Fault Refusal :=
  runImplied .sed (fun s => s.setFlags { s.flags with d := true }) s

/-- CLV (R190): `V <- 0`. -/
def execClv (s : State) : Host.Outcome State Fault Refusal :=
  runImplied .clv (fun s => s.setFlags { s.flags with v := false }) s

/-- NOP, 0xEA (R191): only PC moves on. -/
def execNop (s : State) : Host.Outcome State Fault Refusal :=
  runImplied .nop (fun s => s) s

end Sys2Proof.Machine
end

