-- ==== Sys2Proof/Machine/Arith.lean ====
section
/-! DEFINITION. Arithmetic, logic, compare and bit test (spec/43_arith_logic.md R142 to R150). -/

namespace Sys2Proof.Machine

/-- The body of ADC (R142): `(r, C, V, Z, N) <- adc_core(A, m, C); A <- r`. SBC, RRA and ISB use it too (R143, R223, R225). -/
def addToA (m : Byte) (s : State) : State :=
  let u := adcCore s.a m s.flags.c
  (s.setA u.r).setFlags (s.flags.setAlu u)

/-- `cmp_core(r, m)` on the machine's flags (R141). -/
def compare (r m : Byte) (s : State) : State := s.setFlags (cmpCore r m s.flags)

/-- ADC (R142). -/
def execAdc (src : Src) (s : State) : Host.Outcome State Fault Refusal :=
  runRead (.adc src) src (fun m s => addToA m s) s

/-- SBC (R143): ADC of the complement of the operand. -/
def execSbc (src : Src) (s : State) : Host.Outcome State Fault Refusal :=
  runRead (.sbc src) src (fun m s => addToA (m ^^^ 0xFF) s) s

/-- AND (R144): `A <- set_zn(A & M)`. -/
def execAnd (src : Src) (s : State) : Host.Outcome State Fault Refusal :=
  runRead (.and src) src (fun m s => (s.setA (s.a &&& m)).setZn (s.a &&& m)) s

/-- ORA (R145): `A <- set_zn(A | M)`. -/
def execOra (src : Src) (s : State) : Host.Outcome State Fault Refusal :=
  runRead (.ora src) src (fun m s => (s.setA (s.a ||| m)).setZn (s.a ||| m)) s

/-- EOR (R146): `A <- set_zn(A ^ M)`. -/
def execEor (src : Src) (s : State) : Host.Outcome State Fault Refusal :=
  runRead (.eor src) src (fun m s => (s.setA (s.a ^^^ m)).setZn (s.a ^^^ m)) s

/-- CMP (R147): `cmp_core(A, M)`. -/
def execCmp (src : Src) (s : State) : Host.Outcome State Fault Refusal :=
  runRead (.cmp src) src (fun m s => compare s.a m s) s

/-- CPX (R148): `cmp_core(X, M)`. -/
def execCpx (src : Src) (s : State) : Host.Outcome State Fault Refusal :=
  runRead (.cpx src) src (fun m s => compare s.x m s) s

/-- CPY (R149): `cmp_core(Y, M)`. -/
def execCpy (src : Src) (s : State) : Host.Outcome State Fault Refusal :=
  runRead (.cpy src) src (fun m s => compare s.y m s) s

/-- The flags of BIT (R150): Z from A & M, N and V copied from bits 7 and 6 of M; C, D, I kept. -/
def bitFlags (a m : Byte) (f : Flags) : Flags :=
  { f with z := (a &&& m) == 0x00, n := m.getLsbD 7, v := m.getLsbD 6 }

/-- BIT (R150): A unchanged. -/
def execBit (m : MemArg) (s : State) : Host.Outcome State Fault Refusal :=
  runRead (.bit m) (.mem m) (fun b s => s.setFlags (bitFlags s.a b s.flags)) s

end Sys2Proof.Machine
end

