-- ==== Sys2Proof/Machine/Undocumented.lean ====
section
/-! DEFINITION. The undocumented opcodes (spec/47_undocumented.md R220 to R243). -/

namespace Sys2Proof.Machine

/-! ### Fused read-modify-write -/

/-- A fused opcode's body: the first half `f` gives the byte for memory and its flags, the second half `g` changes A and flags with that byte (section 1 of the file, C4). -/
def fusedBody (f : Byte → Flags → Byte × Flags) (g : Byte → State → State) (old : Byte) (s : State) : Got :=
  let n := shiftBody f old s
  ⟨n.val, g n.val n.st⟩

/-- SLO (R220): ASL, then `A <- set_zn(A | new)`. -/
def execSlo (m : MemArg) (s : State) : Host.Outcome State Fault Refusal :=
  runRmw (.slo m) m (fusedBody asl8 fun new s => (s.setA (s.a ||| new)).setZn (s.a ||| new)) s

/-- RLA (R221): ROL, then `A <- set_zn(A & new)`. -/
def execRla (m : MemArg) (s : State) : Host.Outcome State Fault Refusal :=
  runRmw (.rla m) m (fusedBody rol8 fun new s => (s.setA (s.a &&& new)).setZn (s.a &&& new)) s

/-- SRE (R222): LSR, then `A <- set_zn(A ^ new)`. -/
def execSre (m : MemArg) (s : State) : Host.Outcome State Fault Refusal :=
  runRmw (.sre m) m (fusedBody lsr8 fun new s => (s.setA (s.a ^^^ new)).setZn (s.a ^^^ new)) s

/-- RRA (R223): ROR, then ADC with the C just produced. -/
def execRra (m : MemArg) (s : State) : Host.Outcome State Fault Refusal :=
  runRmw (.rra m) m (fusedBody ror8 fun new s => addToA new s) s

/-- DCP (R224): decrement, then `cmp_core(A, new)`. -/
def execDcp (m : MemArg) (s : State) : Host.Outcome State Fault Refusal :=
  runRmw (.dcp m) m (fusedBody dec8 fun new s => compare s.a new s) s

/-- ISB (R225): increment, then SBC. -/
def execIsb (m : MemArg) (s : State) : Host.Outcome State Fault Refusal :=
  runRmw (.isb m) m (fusedBody inc8 fun new s => addToA (new ^^^ 0xFF) s) s

/-! ### Other opcodes with defined results -/

/-- LAX (R226): `A <- M; X <- M; set_zn(M)`. -/
def execLax (m : MemArg) (s : State) : Host.Outcome State Fault Refusal :=
  runRead (.lax m) (.mem m) (fun b s => ((s.setA b).setX b).setZn b) s

/-- SAX (R227): `MemWrite(ea, 1, A & X)`. -/
def execSax (m : MemArg) (s : State) : Host.Outcome State Fault Refusal :=
  runWrite (.sax m) m (fun s => s.a &&& s.x) s

/-- ANC (R228): `A <- set_zn(A & M); C <- N`. -/
def ancBody (m : Byte) (s : State) : State :=
  let t := s.a &&& m
  let s1 := (s.setA t).setZn t
  s1.setFlags { s1.flags with c := s1.flags.n }

/-- ANC (R228), both encodings. -/
def execAnc (code : Byte) (b : Byte) (s : State) : Host.Outcome State Fault Refusal :=
  runRead (.anc code b) (.imm b) ancBody s

/-- `t <- A & M; C <- t[0]; A <- set_zn(t >> 1)` (R229). -/
def asrBody (m : Byte) (s : State) : State :=
  let t := s.a &&& m
  let s1 := (s.setA (t >>> 1)).setZn (t >>> 1)
  s1.setFlags { s1.flags with c := t.getLsbD 0 }

/-- ASR (R229). -/
def execAsr (b : Byte) (s : State) : Host.Outcome State Fault Refusal :=
  runRead (.asr b) (.imm b) (fun m s => asrBody m s) s

/-- `t <- A & M; A <- set_zn((t >> 1) | (C << 7)); C <- A[6]; V <- A[6] ^ A[5]` (R230). -/
def arrBody (m : Byte) (s : State) : State :=
  let t := s.a &&& m
  let r := (t >>> 1) ||| (carryIn 8 s.flags.c <<< 7)
  let s1 := (s.setA r).setZn r
  s1.setFlags { s1.flags with c := r.getLsbD 6, v := r.getLsbD 6 ^^ r.getLsbD 5 }

/-- ARR (R230). -/
def execArr (b : Byte) (s : State) : Host.Outcome State Fault Refusal :=
  runRead (.arr b) (.imm b) (fun m s => arrBody m s) s

/-- `t <- A & X; C <- (t >= M); X <- set_zn((t - M) & 0xFF)` (R231). -/
def sbxBody (m : Byte) (s : State) : State :=
  let t := s.a &&& s.x
  let s1 := (s.setX (t - m)).setZn (t - m)
  s1.setFlags { s1.flags with c := decide (m.toNat ≤ t.toNat) }

/-- SBX (R231). -/
def execSbx (b : Byte) (s : State) : Host.Outcome State Fault Refusal :=
  runRead (.sbx b) (.imm b) (fun m s => sbxBody m s) s

/-- `t <- M & S; A <- t; X <- t; S <- t; set_zn(t)` (R232). -/
def lasBody (m : Byte) (s : State) : State :=
  let t := m &&& s.sp
  (((s.setA t).setX t).setSp t).setZn t

/-- LAS (R232), mode AbsoluteY. -/
def execLas (w : Addr) (s : State) : Host.Outcome State Fault Refusal :=
  runRead (.las w) (.mem (.aby w)) lasBody s

/-- `A <- set_zn((A | ANE_MAGIC) & X & M)` (R233; log 10). -/
def aneBody (m : Byte) (s : State) : State :=
  let t := (s.a ||| Config.aneMagic) &&& s.x &&& m
  (s.setA t).setZn t

/-- ANE (R233). -/
def execAne (b : Byte) (s : State) : Host.Outcome State Fault Refusal :=
  runRead (.ane b) (.imm b) (fun m s => aneBody m s) s

/-- `t <- (A | LXA_MAGIC) & M; A <- t; X <- t; set_zn(t)` (R234; log 10). -/
def lxaBody (m : Byte) (s : State) : State :=
  let t := (s.a ||| Config.lxaMagic) &&& m
  ((s.setA t).setX t).setZn t

/-- LXA (R234). -/
def execLxa (b : Byte) (s : State) : Host.Outcome State Fault Refusal :=
  runRead (.lxa b) (.imm b) (fun m s => lxaBody m s) s

/-- SBC, second encoding 0xEB (R235): as SBC (R143). -/
def execSbcEb (b : Byte) (s : State) : Host.Outcome State Fault Refusal :=
  runRead (.sbcEb b) (.imm b) (fun m s => addToA (m ^^^ 0xFF) s) s

/-! ### Undocumented NOPs -/

/-- NOP, implied variants (R236). -/
def execNopImp (code : Byte) (s : State) : Host.Outcome State Fault Refusal :=
  runImplied (.nopImp code) (fun s => s) s

/-- NOP, two-byte variants (R237): the operand is fetched or read, and discarded. -/
def execNopDop (code : Byte) (src : Src) (s : State) : Host.Outcome State Fault Refusal :=
  runRead (.nopDop code src) src (fun _ s => s) s

/-- NOP, three-byte variants (R238): the operand is read and discarded. -/
def execNopTop (code : Byte) (m : MemArg) (s : State) : Host.Outcome State Fault Refusal :=
  runRead (.nopTop code m) (.mem m) (fun _ s => s) s

/-! ### Unstable opcodes: the step returns Unstable(opcode) and changes nothing (R83, R262; log 8) -/

/-- SHA (R239). -/
def execSha (m : MemArg) (s : State) : Host.Outcome State Fault Refusal := .next (signalUnstable (Instr.sha m).opcode s)

/-- SHS (R240). -/
def execShs (w : Addr) (s : State) : Host.Outcome State Fault Refusal := .next (signalUnstable (Instr.shs w).opcode s)

/-- SHX (R241). -/
def execShx (w : Addr) (s : State) : Host.Outcome State Fault Refusal := .next (signalUnstable (Instr.shx w).opcode s)

/-- SHY (R242). -/
def execShy (w : Addr) (s : State) : Host.Outcome State Fault Refusal := .next (signalUnstable (Instr.shy w).opcode s)

/-! ### JAM -/

/-- JAM (R243): the run state becomes Halted and PC stays at pc0. The twelve encodings behave identically. -/
def execJam (_code : Byte) (s : State) : Host.Outcome State Fault Refusal := .next (signalHalted s)

end Sys2Proof.Machine
end

