-- ==== Sys2Proof/Machine/Dispatch.lean ====
section
/-! DEFINITION. One arm per constructor of Instr: the call of its meaning. -/

namespace Sys2Proof.Machine

def exec (i : Instr) (s : State) : Host.Outcome State Fault Refusal :=
  match i with
  | .lda src => Sys2Proof.Machine.execLda src s
  | .ldx src => Sys2Proof.Machine.execLdx src s
  | .ldy src => Sys2Proof.Machine.execLdy src s
  | .sta m => Sys2Proof.Machine.execSta m s
  | .stx m => Sys2Proof.Machine.execStx m s
  | .sty m => Sys2Proof.Machine.execSty m s
  | .tax => Sys2Proof.Machine.execTax s
  | .tay => Sys2Proof.Machine.execTay s
  | .txa => Sys2Proof.Machine.execTxa s
  | .tya => Sys2Proof.Machine.execTya s
  | .tsx => Sys2Proof.Machine.execTsx s
  | .txs => Sys2Proof.Machine.execTxs s
  | .adc src => Sys2Proof.Machine.execAdc src s
  | .sbc src => Sys2Proof.Machine.execSbc src s
  | .and src => Sys2Proof.Machine.execAnd src s
  | .ora src => Sys2Proof.Machine.execOra src s
  | .eor src => Sys2Proof.Machine.execEor src s
  | .cmp src => Sys2Proof.Machine.execCmp src s
  | .cpx src => Sys2Proof.Machine.execCpx src s
  | .cpy src => Sys2Proof.Machine.execCpy src s
  | .bit m => Sys2Proof.Machine.execBit m s
  | .asl dst => Sys2Proof.Machine.execAsl dst s
  | .lsr dst => Sys2Proof.Machine.execLsr dst s
  | .rol dst => Sys2Proof.Machine.execRol dst s
  | .ror dst => Sys2Proof.Machine.execRor dst s
  | .inc m => Sys2Proof.Machine.execInc m s
  | .dec m => Sys2Proof.Machine.execDec m s
  | .inx => Sys2Proof.Machine.execInx s
  | .iny => Sys2Proof.Machine.execIny s
  | .dex => Sys2Proof.Machine.execDex s
  | .dey => Sys2Proof.Machine.execDey s
  | .pha => Sys2Proof.Machine.execPha s
  | .pla => Sys2Proof.Machine.execPla s
  | .php => Sys2Proof.Machine.execPhp s
  | .plp => Sys2Proof.Machine.execPlp s
  | .clc => Sys2Proof.Machine.execClc s
  | .sec => Sys2Proof.Machine.execSec s
  | .cli => Sys2Proof.Machine.execCli s
  | .sei => Sys2Proof.Machine.execSei s
  | .cld => Sys2Proof.Machine.execCld s
  | .sed => Sys2Proof.Machine.execSed s
  | .clv => Sys2Proof.Machine.execClv s
  | .nop => Sys2Proof.Machine.execNop s
  | .jmp t => Sys2Proof.Machine.execJmp t s
  | .jsr w => Sys2Proof.Machine.execJsr w s
  | .rts => Sys2Proof.Machine.execRts s
  | .brk => Sys2Proof.Machine.execBrk s
  | .rti => Sys2Proof.Machine.execRti s
  | .bpl d => Sys2Proof.Machine.execBpl d s
  | .bmi d => Sys2Proof.Machine.execBmi d s
  | .bvc d => Sys2Proof.Machine.execBvc d s
  | .bvs d => Sys2Proof.Machine.execBvs d s
  | .bcc d => Sys2Proof.Machine.execBcc d s
  | .bcs d => Sys2Proof.Machine.execBcs d s
  | .bne d => Sys2Proof.Machine.execBne d s
  | .beq d => Sys2Proof.Machine.execBeq d s
  | .slo m => Sys2Proof.Machine.execSlo m s
  | .rla m => Sys2Proof.Machine.execRla m s
  | .sre m => Sys2Proof.Machine.execSre m s
  | .rra m => Sys2Proof.Machine.execRra m s
  | .dcp m => Sys2Proof.Machine.execDcp m s
  | .isb m => Sys2Proof.Machine.execIsb m s
  | .lax m => Sys2Proof.Machine.execLax m s
  | .sax m => Sys2Proof.Machine.execSax m s
  | .anc code b => Sys2Proof.Machine.execAnc code b s
  | .asr b => Sys2Proof.Machine.execAsr b s
  | .arr b => Sys2Proof.Machine.execArr b s
  | .sbx b => Sys2Proof.Machine.execSbx b s
  | .las w => Sys2Proof.Machine.execLas w s
  | .ane b => Sys2Proof.Machine.execAne b s
  | .lxa b => Sys2Proof.Machine.execLxa b s
  | .sbcEb b => Sys2Proof.Machine.execSbcEb b s
  | .nopImp code => Sys2Proof.Machine.execNopImp code s
  | .nopDop code src => Sys2Proof.Machine.execNopDop code src s
  | .nopTop code m => Sys2Proof.Machine.execNopTop code m s
  | .sha m => Sys2Proof.Machine.execSha m s
  | .shs w => Sys2Proof.Machine.execShs w s
  | .shx w => Sys2Proof.Machine.execShx w s
  | .shy w => Sys2Proof.Machine.execShy w s
  | .jam code => Sys2Proof.Machine.execJam code s

end Sys2Proof.Machine
end

