-- ==== Sys2Proof/Machine/HostPort.lean ====
section
/-! DEFINITION. What the host does between steps: power-on, reset, set_pc, observe, the mnemonic of a byte, the assembler text, the trace line
(spec/10_state.md R22, spec/60_exceptions.md R273, spec/70_reset_and_hazards.md R280 to R285, R291), and the placing of a program's
bytes. None of these happens inside a step. -/

namespace Sys2Proof.Machine

/-- `reset()` (R281, R282, R283): every register, flag and the run state at its reset value, PC from the RESET vector by two reads,
low byte first; memory untouched; whatever condition stood is overridden. -/
def State.hostReset (s : State) : State :=
  let s1 : State :=
    { s.beginStep with a := 0x00, x := 0x00, y := 0x00, sp := 0xFD, flags := Flags.atReset, run := .running }
  let g := readWord resetVector (resetVector + 1) s1
  g.st.setPcTo g.val

/-- Power-on over a platform whose plain memory holds `mem` and whose device addresses are `devices` (R280, R283, R284, R291): the
values `reset()` gives, with no access made before. -/
def State.powerOn (mem : Memory) (devices : List Region) : State :=
  State.hostReset
    { a := 0x00, x := 0x00, y := 0x00, sp := 0xFD, pc := 0x0000, flags := Flags.atReset, run := .running
      mem := mem, devices := devices, busCount := 0, accesses := [], cycles := 0, cond := .none }

/-- `set_pc(w)` (R285): PC and nothing else; not the run state, no bus access. -/
def State.setPc (s : State) (w : Addr) : State := { s with pc := w }

/-- What the host can observe at a step boundary (R22): no side effect. -/
structure Observation where
  pc : Addr
  a : Byte
  x : Byte
  y : Byte
  sp : Byte
  p : Byte
  run : Run
  deriving DecidableEq, Repr

/-- The observation port (R22); P is `pack()` (R15, decision D14). -/
def State.observe (s : State) : Observation :=
  { pc := s.pc, a := s.a, x := s.x, y := s.y, sp := s.sp, p := s.flags.pack, run := s.run }

/-- The mnemonic of any opcode byte (R22, R68). -/
def mnemonicOf (op : Byte) : String := (tableEntry op).mnemonic.text

/-- A nibble as an upper-case hexadecimal digit. -/
def hexDigit (n : Nat) : String :=
  ["0", "1", "2", "3", "4", "5", "6", "7", "8", "9", "A", "B", "C", "D", "E", "F"].getD n "?"

/-- A byte as two hexadecimal digits. -/
def hexByte (b : Byte) : String := hexDigit (b.toNat / 16) ++ hexDigit (b.toNat % 16)

/-- A word as four hexadecimal digits. -/
def hexWord (w : Addr) : String := hexByte (hi w) ++ hexByte (lo w)

/-- An instruction in the assembler syntax of the spec, at address `pc0` (R64, R69): the mnemonic and the operand as its mode writes it;
a branch shows its target. It is host text and no state. -/
def asmText (i : Instr) (pc0 : Addr) : String :=
  let b1 := i.operand.getD 0 0
  let byte := "$" ++ hexByte b1
  let address := "$" ++ hexByte (i.operand.getD 1 0) ++ hexByte b1
  let operand :=
    match i.mode with
    | .imp => ""
    | .acc => " A"
    | .imm => " #" ++ byte
    | .zp => " " ++ byte
    | .zpx => " " ++ byte ++ ",X"
    | .zpy => " " ++ byte ++ ",Y"
    | .abs => " " ++ address
    | .abx => " " ++ address ++ ",X"
    | .aby => " " ++ address ++ ",Y"
    | .rel => " $" ++ hexWord (pc0 + 2 + b1.signExtend 16)
    | .ind => " (" ++ address ++ ")"
    | .izx => " (" ++ byte ++ ",X)"
    | .izy => " (" ++ byte ++ "),Y"
  i.mnemonic.text ++ operand

/-- The trace line the host builds before a step (R273): PC, mnemonic of the byte at PC, A, X, Y, P, SP. The single spaces and upper
case are the layout of spec/95_test_vectors.md part 1 (log 23). -/
def State.traceLine (s : State) : String :=
  hexWord s.pc ++ " " ++ mnemonicOf (s.busValue 0 s.pc) ++ " A:" ++ hexByte s.a ++ " X:" ++ hexByte s.x ++ " Y:" ++ hexByte s.y
    ++ " P:" ++ hexByte s.flags.pack ++ " SP:" ++ hexByte s.sp

/-- Store the low three bytes of `w` at PC, PC + 1, PC + 2, first byte at PC, in plain memory; take away device regions holding one
of the three addresses; set the core Running. It stands for the platform's having a program there (log 6). -/
def State.placeInstr (s : State) (w : Nat) : State :=
  let holds (r : Region) (a : Addr) : Bool := decide (r.first.toNat ≤ a.toNat) && decide (a.toNat ≤ r.last.toNat)
  { s with
    run := .running
    devices := s.devices.filter fun r => !(holds r s.pc || holds r (s.pc + 1) || holds r (s.pc + 2))
    mem := ((s.mem.write s.pc.toNat (BitVec.ofNat 8 w)).write (s.pc + 1).toNat (BitVec.ofNat 8 (w / 256))).write
      (s.pc + 2).toNat (BitVec.ofNat 8 (w / 65536)) }

end Sys2Proof.Machine
end

