-- ==== Sys2Proof/Machine/Step.lean ====
section
/-! DEFINITION. One step (spec/40_step_and_dispatch.md R80), and the placing of an instruction where the next step fetches it. -/

namespace Sys2Proof.Machine

/-- One step (R80): in Halted nothing is fetched (R90); otherwise the instruction at PC runs, its bus accesses, the opcode fetch
first, made by its meaning. -/
def step (s : State) : Host.Outcome State Fault Refusal :=
  match s.run with
  | .halted => .next (haltedStep s)
  | .running => exec s.nextInstr s

/-- `s` with the low `nbits` bits of `w` stored, first byte lowest, at the three addresses the next instruction is fetched from. The
core is set Running and device regions that hold one of the three addresses are taken away, so that the next step fetches those
bytes; nothing else changes. -/
def State.withFetchWord (s : State) (nbits w : Nat) : State :=
  s.placeInstr (w % 2 ^ nbits)

end Sys2Proof.Machine
end

