-- ==== Sys2Proof/Safety.lean ====
section
/-! DEFINITION. What counts as a safe run: no step of it signals a condition (spec/60_exceptions.md R260 to R264, spec/92 "Launch
premises"). -/

namespace Sys2Proof.Machine

/-- The last step completed its instruction: it returned None (R260). -/
def State.completed (s : State) : Bool := s.cond == .none

/-- `n` steps from `s` all complete. A run that meets JAM, or one of SHA, SHS, SHX, SHY, is not safe (R261, R262). -/
def completes : Nat → State → Bool
  | 0, _ => true
  | n + 1, s =>
    match step s with
    | .next t => t.completed && completes n t
    | .fault _ => false
    | .refused _ => false

/-- The condition and the run state agree: the last step returned Halted exactly if the core is Halted (R260, R261). The host's
`reset()` and `step()` keep it. -/
def State.condAgrees (s : State) : Bool := (s.cond == .halted) == (s.run == .halted)

/-- The invariant of the machine: memory is in its canonical form, and condition and run state agree. -/
def State.Inv (s : State) : Prop := s.mem.wf = true ∧ s.condAgrees = true

end Sys2Proof.Machine
end

