-- ==== Sys2Proof/Certificates/Slice0/Obligations.lean ====
section
/-! DEFINITION. The statements for the provers, each from a rule of spec/, and the vocabulary they are written in. The vocabulary
(namespace Claim) says in closed form, from the state at pc0, what the rules say: the effective address, the bytes the bus reads
return, the list of bus accesses, the cycle count. It names `State.busValue s k a`, the byte that access number k of the step returns
when it reads address a (plain memory's byte, or a device's free value), so every statement holds for every `BUS` the model has.
An equation `exec i s = .next t` is of whole states: what `t` does not name is unchanged, so it is the frame as well. -/

namespace Sys2Proof.Claim

open Sys2Proof.Machine

/-- One entry of an instruction rule's "Encodings" line: opcode byte, mode, base cycles, and the `+` of the page-cross cycle. -/
structure Row where
  code : Byte
  mode : Mode
  cycles : Nat
  plus : Bool
  deriving DecidableEq, Repr

/-- The rows name exactly the modes that are well-formed for an instruction. -/
def rowsHave (rows : List Row) (m : Mode) : Bool := rows.any fun r => r.mode == m

/-- Z and N from a byte (R17). -/
def zn (v : Byte) (f : Flags) : Flags := { f with z := decide (v = 0x00), n := v.getLsbD 7 }

/-- The reads of the first `n` instruction bytes, from pc0 up (R81, R115). -/
def fetched (s : State) (n : Nat) : List Access :=
  (List.range n).map fun k => Access.read (s.pc + BitVec.ofNat 16 k) (s.busValue k (s.pc + BitVec.ofNat 16 k))

/-- A byte as an address in page 0 (R101). -/
def page0 (z : Byte) : Addr := z.setWidth 16

/-- The pointer the indirect modes read through, little-endian, both bytes in page 0 (R110, R111): accesses 2 and 3 of the step. -/
def pointer (p : Byte) (s : State) : Addr := word (s.busValue 3 (page0 (p + 1))) (s.busValue 2 (page0 p))

/-- The effective address (R101 to R106, R110, R111). -/
def ea (m : MemArg) (s : State) : Addr :=
  match m with
  | .zp z => page0 z
  | .zpx z => page0 (z + s.x)
  | .zpy z => page0 (z + s.y)
  | .abs w => w
  | .abx w => w + s.x.setWidth 16
  | .aby w => w + s.y.setWidth 16
  | .izx z => pointer (z + s.x) s
  | .izy z => pointer z s + s.y.setWidth 16

/-- `crossed`: the index addition changed the high byte of the address (R114). -/
def crossed (m : MemArg) (s : State) : Bool :=
  match m with
  | .abx w => hi w != hi (ea m s)
  | .aby w => hi w != hi (ea m s)
  | .izy z => hi (pointer z s) != hi (ea m s)
  | .zp _ | .zpx _ | .zpy _ | .abs _ | .izx _ => false

/-- The two pointer reads of an indirect mode (R115). -/
def pointerReads (p : Byte) (s : State) : List Access :=
  [Access.read (page0 p) (s.busValue 2 (page0 p)), Access.read (page0 (p + 1)) (s.busValue 3 (page0 (p + 1)))]

/-- The bus accesses up to and with `Resolve` (R115): the instruction bytes, then the pointer bytes. -/
def reads (m : MemArg) (s : State) : List Access :=
  match m with
  | .izx z => fetched s 2 ++ pointerReads (z + s.x) s
  | .izy z => fetched s 2 ++ pointerReads z s
  | .zp _ | .zpx _ | .zpy _ => fetched s 2
  | .abs _ | .abx _ | .aby _ => fetched s 3

/-- How many accesses those are. -/
def before (m : MemArg) : Nat :=
  match m with
  | .izx _ | .izy _ => 4
  | .zp _ | .zpx _ | .zpy _ => 2
  | .abs _ | .abx _ | .aby _ => 3

/-- The byte the read of `ea` returns. -/
def atEa (m : MemArg) (s : State) : Byte := s.busValue (before m) (ea m s)

/-- The operand byte M (R85, R100). -/
def srcByte (src : Src) (s : State) : Byte :=
  match src with
  | .imm b => b
  | .mem m => atEa m s

/-- The accesses of a class immediate or read step (R115). -/
def srcReads (src : Src) (s : State) : List Access :=
  match src with
  | .imm _ => fetched s 2
  | .mem m => reads m s ++ [Access.read (ea m s) (atEa m s)]

def srcCrossed (src : Src) (s : State) : Bool :=
  match src with
  | .imm _ => false
  | .mem m => crossed m s

/-- Plain memory after a write of `v` at `a`; a device address is not plain memory. -/
def stored (s : State) (a : Addr) (v : Byte) (m : Memory) : Memory := if s.isDevice a then m else m.write a.toNat v

/-- `t` as the state after a completed step from `s` of `len` instruction bytes: PC moved past them, the accesses made and counted,
the cycle count and the condition None returned. -/
def retired (s t : State) (len : Nat) (acc : List Access) (cycles : Nat) : State :=
  { t with
    pc := s.pc + BitVec.ofNat 16 len
    accesses := acc
    busCount := s.busCount + acc.length
    cycles := cycles
    cond := .none }

/-- As `retired`, but PC is `pc`. -/
def jumped (s t : State) (pc : Addr) (acc : List Access) (cycles : Nat) : State :=
  { retired s t 0 acc cycles with pc := pc }

/-- The cycle count of a row. -/
def Row.total (r : Row) (cross : Bool) : Nat := r.cycles + if r.plus && cross then 1 else 0

/-- An instruction of class immediate or read (R85): its encodings, and what it does to the state with operand byte M. -/
def ReadClass (mk : Src → Instr) (rows : List Row) (f : Byte → State → State) : Prop :=
  (∀ src, (mk src).wellFormed = rowsHave rows src.mode) ∧
  ∀ r ∈ rows, ∀ src s, src.mode = r.mode →
    (mk src).opcode = r.code ∧
    exec (mk src) s = .next (retired s (f (srcByte src s) s) src.mode.length (srcReads src s) (r.total (srcCrossed src s)))

/-- An instruction of class read with no immediate form. -/
def MemReadClass (mk : MemArg → Instr) (rows : List Row) (f : Byte → State → State) : Prop :=
  (∀ m, (mk m).wellFormed = rowsHave rows m.mode) ∧
  ∀ r ∈ rows, ∀ m s, m.mode = r.mode →
    (mk m).opcode = r.code ∧
    exec (mk m) s =
      .next (retired s (f (atEa m s) s) m.mode.length (reads m s ++ [Access.read (ea m s) (atEa m s)]) (r.total (crossed m s)))

/-- An instruction of class write (R86) that stores the byte `v`: one write at `ea`, no read of it. -/
def WriteClass (mk : MemArg → Instr) (rows : List Row) (v : State → Byte) : Prop :=
  (∀ m, (mk m).wellFormed = rowsHave rows m.mode) ∧
  ∀ r ∈ rows, ∀ m s, m.mode = r.mode →
    (mk m).opcode = r.code ∧
    exec (mk m) s =
      .next (retired s { s with mem := stored s (ea m s) (v s) s.mem } m.mode.length
        (reads m s ++ [Access.write (ea m s) (v s)]) r.cycles)

/-- What an rmw step leaves (R87): `f` gives the new byte and the state with its registers and flags; the unmodified byte is written
at `ea`, then the new one. -/
def rmwResult (m : MemArg) (f : Byte → State → Byte × State) (cycles : Nat) (s : State) : State :=
  let old := atEa m s
  let new := (f old s).1
  retired s { (f old s).2 with mem := stored s (ea m s) new (stored s (ea m s) old s.mem) } m.mode.length
    (reads m s ++ [Access.read (ea m s) old, Access.write (ea m s) old, Access.write (ea m s) new]) cycles

/-- An instruction of class rmw (R87). -/
def RmwClass (mk : MemArg → Instr) (rows : List Row) (f : Byte → State → Byte × State) : Prop :=
  (∀ m, (mk m).wellFormed = rowsHave rows m.mode) ∧
  ∀ r ∈ rows, ∀ m s, m.mode = r.mode →
    (mk m).opcode = r.code ∧ exec (mk m) s = .next (rmwResult m f r.cycles s)

/-- A shift or rotate: class accumulator on A (R88), class rmw on memory (R87). -/
def ShiftClass (mk : Dst → Instr) (rows : List Row) (f : Byte → State → Byte × State) : Prop :=
  (∀ dst, (mk dst).wellFormed = rowsHave rows dst.mode) ∧
  ∀ r ∈ rows,
    (∀ s, r.mode = .acc → (mk .acc).opcode = r.code ∧
      exec (mk .acc) s = .next (retired s { (f s.a s).2 with a := (f s.a s).1 } 1 (fetched s 1) r.cycles)) ∧
    (∀ m s, m.mode = r.mode → (mk (.mem m)).opcode = r.code ∧ exec (mk (.mem m)) s = .next (rmwResult m f r.cycles s))

/-- A one-byte instruction that only changes registers and flags, 2 cycles, no access after the opcode fetch. -/
def ImpliedClass (i : Instr) (code : Byte) (f : State → State) : Prop :=
  i.opcode = code ∧ ∀ s, exec i s = .next (retired s (f s) 1 (fetched s 1) 2)

/-- A two-byte immediate instruction, 2 cycles. -/
def ImmClass (mk : Byte → Instr) (code : Byte) (f : Byte → State → State) : Prop :=
  ∀ b s, (mk b).opcode = code ∧ exec (mk b) s = .next (retired s (f b s) 2 (fetched s 2) 2)

/-- A branch on a flag condition (R205, R92). -/
def BranchClass (mk : Byte → Instr) (code : Byte) (taken : Flags → Bool) : Prop :=
  ∀ d s, (mk d).opcode = code ∧
    exec (mk d) s =
      .next (let next := s.pc + 2
             let target := next + d.signExtend 16
             if taken s.flags then jumped s s target (fetched s 2) (if hi next = hi target then 3 else 4)
             else jumped s s next (fetched s 2) 2)

/-- A with the byte `m` and the carry added, and C, V, Z, N as `adc_core` gives them (R140, R142). -/
def added (m : Byte) (s : State) : State :=
  let u := adcCore s.a m s.flags.c
  { s with a := u.r, flags := { s.flags with c := u.c, v := u.v, z := u.z, n := u.n } }

/-- The flags of a comparison of `r` with `m` (R141). -/
def compared (r m : Byte) (f : Flags) : Flags :=
  { f with c := decide (m.toNat ≤ r.toNat), z := decide (r = m), n := (r - m).getLsbD 7 }

/-- A and its Z and N. -/
def withA (v : Byte) (s : State) : State := { s with a := v, flags := zn v s.flags }
def withX (v : Byte) (s : State) : State := { s with x := v, flags := zn v s.flags }
def withY (v : Byte) (s : State) : State := { s with y := v, flags := zn v s.flags }

/-- C set to a bit. -/
def withC (c : Bool) (s : State) : State := { s with flags := { s.flags with c := c } }

/-- C set to a bit, then Z and N from a byte: the flags of a shift with result `new` and the bit shifted out `out`. -/
def shifted (new : Byte) (out : Bool) (s : State) : Byte × State :=
  (new, { s with flags := zn new { s.flags with c := out } })

/-- A flag's value as the number 0 or 1 in a byte. -/
def bitOf (c : Bool) : Byte := if c then 1 else 0

def aslOf (old : Byte) (s : State) : Byte × State := shifted (old <<< 1) (old.getLsbD 7) s
def lsrOf (old : Byte) (s : State) : Byte × State := shifted (old >>> 1) (old.getLsbD 0) s
def rolOf (old : Byte) (s : State) : Byte × State := shifted ((old <<< 1) ||| bitOf s.flags.c) (old.getLsbD 7) s
def rorOf (old : Byte) (s : State) : Byte × State := shifted ((old >>> 1) ||| (bitOf s.flags.c <<< 7)) (old.getLsbD 0) s

/-- A second half `g`, applied with the byte the first half `f` made (47_undocumented.md section 1). -/
def fused (f : Byte → State → Byte × State) (g : Byte → State → State) (old : Byte) (s : State) : Byte × State :=
  ((f old s).1, g (f old s).1 (f old s).2)

/-- The "Encodings" line of R120. -/
def ldaRows : List Row :=
  [⟨0xA9, .imm, 2, false⟩, ⟨0xA5, .zp, 3, false⟩, ⟨0xB5, .zpx, 4, false⟩, ⟨0xAD, .abs, 4, false⟩, ⟨0xBD, .abx, 4, true⟩, ⟨0xB9, .aby, 4, true⟩, ⟨0xA1, .izx, 6, false⟩, ⟨0xB1, .izy, 5, true⟩]

/-- The "Encodings" line of R121. -/
def ldxRows : List Row :=
  [⟨0xA2, .imm, 2, false⟩, ⟨0xA6, .zp, 3, false⟩, ⟨0xB6, .zpy, 4, false⟩, ⟨0xAE, .abs, 4, false⟩, ⟨0xBE, .aby, 4, true⟩]

/-- The "Encodings" line of R122. -/
def ldyRows : List Row :=
  [⟨0xA0, .imm, 2, false⟩, ⟨0xA4, .zp, 3, false⟩, ⟨0xB4, .zpx, 4, false⟩, ⟨0xAC, .abs, 4, false⟩, ⟨0xBC, .abx, 4, true⟩]

/-- The "Encodings" line of R123. -/
def staRows : List Row :=
  [⟨0x85, .zp, 3, false⟩, ⟨0x95, .zpx, 4, false⟩, ⟨0x8D, .abs, 4, false⟩, ⟨0x9D, .abx, 5, false⟩, ⟨0x99, .aby, 5, false⟩, ⟨0x81, .izx, 6, false⟩, ⟨0x91, .izy, 6, false⟩]

/-- The "Encodings" line of R124. -/
def stxRows : List Row :=
  [⟨0x86, .zp, 3, false⟩, ⟨0x96, .zpy, 4, false⟩, ⟨0x8E, .abs, 4, false⟩]

/-- The "Encodings" line of R125. -/
def styRows : List Row :=
  [⟨0x84, .zp, 3, false⟩, ⟨0x94, .zpx, 4, false⟩, ⟨0x8C, .abs, 4, false⟩]

/-- The "Encodings" line of R142. -/
def adcRows : List Row :=
  [⟨0x69, .imm, 2, false⟩, ⟨0x65, .zp, 3, false⟩, ⟨0x75, .zpx, 4, false⟩, ⟨0x6D, .abs, 4, false⟩, ⟨0x7D, .abx, 4, true⟩, ⟨0x79, .aby, 4, true⟩, ⟨0x61, .izx, 6, false⟩, ⟨0x71, .izy, 5, true⟩]

/-- The "Encodings" line of R143. -/
def sbcRows : List Row :=
  [⟨0xE9, .imm, 2, false⟩, ⟨0xE5, .zp, 3, false⟩, ⟨0xF5, .zpx, 4, false⟩, ⟨0xED, .abs, 4, false⟩, ⟨0xFD, .abx, 4, true⟩, ⟨0xF9, .aby, 4, true⟩, ⟨0xE1, .izx, 6, false⟩, ⟨0xF1, .izy, 5, true⟩]

/-- The "Encodings" line of R144. -/
def andRows : List Row :=
  [⟨0x29, .imm, 2, false⟩, ⟨0x25, .zp, 3, false⟩, ⟨0x35, .zpx, 4, false⟩, ⟨0x2D, .abs, 4, false⟩, ⟨0x3D, .abx, 4, true⟩, ⟨0x39, .aby, 4, true⟩, ⟨0x21, .izx, 6, false⟩, ⟨0x31, .izy, 5, true⟩]

/-- The "Encodings" line of R145. -/
def oraRows : List Row :=
  [⟨0x09, .imm, 2, false⟩, ⟨0x05, .zp, 3, false⟩, ⟨0x15, .zpx, 4, false⟩, ⟨0x0D, .abs, 4, false⟩, ⟨0x1D, .abx, 4, true⟩, ⟨0x19, .aby, 4, true⟩, ⟨0x01, .izx, 6, false⟩, ⟨0x11, .izy, 5, true⟩]

/-- The "Encodings" line of R146. -/
def eorRows : List Row :=
  [⟨0x49, .imm, 2, false⟩, ⟨0x45, .zp, 3, false⟩, ⟨0x55, .zpx, 4, false⟩, ⟨0x4D, .abs, 4, false⟩, ⟨0x5D, .abx, 4, true⟩, ⟨0x59, .aby, 4, true⟩, ⟨0x41, .izx, 6, false⟩, ⟨0x51, .izy, 5, true⟩]

/-- The "Encodings" line of R147. -/
def cmpRows : List Row :=
  [⟨0xC9, .imm, 2, false⟩, ⟨0xC5, .zp, 3, false⟩, ⟨0xD5, .zpx, 4, false⟩, ⟨0xCD, .abs, 4, false⟩, ⟨0xDD, .abx, 4, true⟩, ⟨0xD9, .aby, 4, true⟩, ⟨0xC1, .izx, 6, false⟩, ⟨0xD1, .izy, 5, true⟩]

/-- The "Encodings" line of R148. -/
def cpxRows : List Row :=
  [⟨0xE0, .imm, 2, false⟩, ⟨0xE4, .zp, 3, false⟩, ⟨0xEC, .abs, 4, false⟩]

/-- The "Encodings" line of R149. -/
def cpyRows : List Row :=
  [⟨0xC0, .imm, 2, false⟩, ⟨0xC4, .zp, 3, false⟩, ⟨0xCC, .abs, 4, false⟩]

/-- The "Encodings" line of R150. -/
def bitRows : List Row :=
  [⟨0x24, .zp, 3, false⟩, ⟨0x2C, .abs, 4, false⟩]

/-- The "Encodings" line of R160. -/
def aslRows : List Row :=
  [⟨0x0A, .acc, 2, false⟩, ⟨0x06, .zp, 5, false⟩, ⟨0x16, .zpx, 6, false⟩, ⟨0x0E, .abs, 6, false⟩, ⟨0x1E, .abx, 7, false⟩]

/-- The "Encodings" line of R161. -/
def lsrRows : List Row :=
  [⟨0x4A, .acc, 2, false⟩, ⟨0x46, .zp, 5, false⟩, ⟨0x56, .zpx, 6, false⟩, ⟨0x4E, .abs, 6, false⟩, ⟨0x5E, .abx, 7, false⟩]

/-- The "Encodings" line of R162. -/
def rolRows : List Row :=
  [⟨0x2A, .acc, 2, false⟩, ⟨0x26, .zp, 5, false⟩, ⟨0x36, .zpx, 6, false⟩, ⟨0x2E, .abs, 6, false⟩, ⟨0x3E, .abx, 7, false⟩]

/-- The "Encodings" line of R163. -/
def rorRows : List Row :=
  [⟨0x6A, .acc, 2, false⟩, ⟨0x66, .zp, 5, false⟩, ⟨0x76, .zpx, 6, false⟩, ⟨0x6E, .abs, 6, false⟩, ⟨0x7E, .abx, 7, false⟩]

/-- The "Encodings" line of R164. -/
def incRows : List Row :=
  [⟨0xE6, .zp, 5, false⟩, ⟨0xF6, .zpx, 6, false⟩, ⟨0xEE, .abs, 6, false⟩, ⟨0xFE, .abx, 7, false⟩]

/-- The "Encodings" line of R165. -/
def decRows : List Row :=
  [⟨0xC6, .zp, 5, false⟩, ⟨0xD6, .zpx, 6, false⟩, ⟨0xCE, .abs, 6, false⟩, ⟨0xDE, .abx, 7, false⟩]

/-- The "Encodings" line of R220. -/
def sloRows : List Row :=
  [⟨0x07, .zp, 5, false⟩, ⟨0x17, .zpx, 6, false⟩, ⟨0x0F, .abs, 6, false⟩, ⟨0x1F, .abx, 7, false⟩, ⟨0x1B, .aby, 7, false⟩, ⟨0x03, .izx, 8, false⟩, ⟨0x13, .izy, 8, false⟩]

/-- The "Encodings" line of R221. -/
def rlaRows : List Row :=
  [⟨0x27, .zp, 5, false⟩, ⟨0x37, .zpx, 6, false⟩, ⟨0x2F, .abs, 6, false⟩, ⟨0x3F, .abx, 7, false⟩, ⟨0x3B, .aby, 7, false⟩, ⟨0x23, .izx, 8, false⟩, ⟨0x33, .izy, 8, false⟩]

/-- The "Encodings" line of R222. -/
def sreRows : List Row :=
  [⟨0x47, .zp, 5, false⟩, ⟨0x57, .zpx, 6, false⟩, ⟨0x4F, .abs, 6, false⟩, ⟨0x5F, .abx, 7, false⟩, ⟨0x5B, .aby, 7, false⟩, ⟨0x43, .izx, 8, false⟩, ⟨0x53, .izy, 8, false⟩]

/-- The "Encodings" line of R223. -/
def rraRows : List Row :=
  [⟨0x67, .zp, 5, false⟩, ⟨0x77, .zpx, 6, false⟩, ⟨0x6F, .abs, 6, false⟩, ⟨0x7F, .abx, 7, false⟩, ⟨0x7B, .aby, 7, false⟩, ⟨0x63, .izx, 8, false⟩, ⟨0x73, .izy, 8, false⟩]

/-- The "Encodings" line of R224. -/
def dcpRows : List Row :=
  [⟨0xC7, .zp, 5, false⟩, ⟨0xD7, .zpx, 6, false⟩, ⟨0xCF, .abs, 6, false⟩, ⟨0xDF, .abx, 7, false⟩, ⟨0xDB, .aby, 7, false⟩, ⟨0xC3, .izx, 8, false⟩, ⟨0xD3, .izy, 8, false⟩]

/-- The "Encodings" line of R225. -/
def isbRows : List Row :=
  [⟨0xE7, .zp, 5, false⟩, ⟨0xF7, .zpx, 6, false⟩, ⟨0xEF, .abs, 6, false⟩, ⟨0xFF, .abx, 7, false⟩, ⟨0xFB, .aby, 7, false⟩, ⟨0xE3, .izx, 8, false⟩, ⟨0xF3, .izy, 8, false⟩]

/-- The "Encodings" line of R226. -/
def laxRows : List Row :=
  [⟨0xA7, .zp, 3, false⟩, ⟨0xB7, .zpy, 4, false⟩, ⟨0xAF, .abs, 4, false⟩, ⟨0xBF, .aby, 4, true⟩, ⟨0xA3, .izx, 6, false⟩, ⟨0xB3, .izy, 5, true⟩]

/-- The "Encodings" line of R227. -/
def saxRows : List Row :=
  [⟨0x87, .zp, 3, false⟩, ⟨0x97, .zpy, 4, false⟩, ⟨0x8F, .abs, 4, false⟩, ⟨0x83, .izx, 6, false⟩]

/-- The encodings of the two-byte and three-byte undocumented NOPs (R237, R238). -/
def dopRows : List Row :=
  [⟨0x80, .imm, 2, false⟩, ⟨0x82, .imm, 2, false⟩, ⟨0x89, .imm, 2, false⟩, ⟨0xC2, .imm, 2, false⟩, ⟨0xE2, .imm, 2, false⟩,
   ⟨0x04, .zp, 3, false⟩, ⟨0x44, .zp, 3, false⟩, ⟨0x64, .zp, 3, false⟩, ⟨0x14, .zpx, 4, false⟩, ⟨0x34, .zpx, 4, false⟩,
   ⟨0x54, .zpx, 4, false⟩, ⟨0x74, .zpx, 4, false⟩, ⟨0xD4, .zpx, 4, false⟩, ⟨0xF4, .zpx, 4, false⟩]

def topRows : List Row :=
  [⟨0x0C, .abs, 4, false⟩, ⟨0x1C, .abx, 4, true⟩, ⟨0x3C, .abx, 4, true⟩, ⟨0x5C, .abx, 4, true⟩, ⟨0x7C, .abx, 4, true⟩,
   ⟨0xDC, .abx, 4, true⟩, ⟨0xFC, .abx, 4, true⟩]

/-- The mnemonics that write Z and N (R13), with PLP and RTI, which write all six flags, and ANC to LXA. -/
def znWriters : List Mnemonic :=
  ([.lda, .ldx, .ldy, .tax, .tay, .txa, .tya, .tsx, .pla, .and, .ora, .eor, .adc, .sbc] : List Mnemonic) ++
  ([.cmp, .cpx, .cpy, .asl, .lsr, .rol, .ror, .inc, .dec, .inx, .iny, .dex, .dey] : List Mnemonic) ++
  ([.slo, .rla, .sre, .rra, .dcp, .isb, .lax, .anc, .asr, .arr, .sbx, .las, .ane, .lxa, .bit, .plp, .rti] : List Mnemonic)

/-- The mnemonics that write C (R13). -/
def cWriters : List Mnemonic :=
  [.adc, .sbc, .cmp, .cpx, .cpy, .asl, .lsr, .rol, .ror, .clc, .sec, .slo, .rla, .sre, .rra, .dcp, .isb, .anc, .asr, .arr, .sbx,
   .plp, .rti]

/-- The mnemonics that write V (R13). -/
def vWriters : List Mnemonic := [.adc, .sbc, .bit, .clv, .rra, .isb, .arr, .plp, .rti]

/-- The mnemonics that write D (R13). -/
def dWriters : List Mnemonic := [.cld, .sed, .plp, .rti]

/-- The mnemonics that write I (R13). -/
def iWriters : List Mnemonic := [.cli, .sei, .brk, .plp, .rti]

/-- The mnemonics that change S: the stack engine's users, TXS and LAS (R11). -/
def spWriters : List Mnemonic := [.pha, .pla, .php, .plp, .jsr, .rts, .brk, .rti, .txs, .las]

/-- The flags D and I set to given values. -/
def withDI (d i : Bool) (s : State) : State := { s with flags := { s.flags with d := d, i := i } }

/-- How many opcode bytes have an entry that satisfies `p`. -/
def entryCount (p : Entry → Bool) : Nat := ((List.range 256).filter fun n => p (tableEntry (BitVec.ofNat 8 n))).length

/-- The sum of `f` over the 256 entries. -/
def entrySum (f : Entry → Nat) : Nat := ((List.range 256).map fun n => f (tableEntry (BitVec.ofNat 8 n))).sum

end Sys2Proof.Claim

open Sys2Proof Sys2Proof.Machine Sys2Proof.Claim

/-- For every assignment of the six live flags, bits 7, 6, 3, 2, 1, 0 of pack() are N, V, D, I, Z, C, bit 5 is 1 and bit 4 is 0 (the spec derives bit 4 from R14); the byte PHP and BRK push differs from pack() in bit 4 only, which is 1. -/
def Obligations.StatusByteLayout : Prop :=
  ∀ f : Flags,
    (f.pack.getLsbD 7 = f.n ∧ f.pack.getLsbD 6 = f.v ∧ f.pack.getLsbD 5 = true ∧ f.pack.getLsbD 4 = false ∧
     f.pack.getLsbD 3 = f.d ∧ f.pack.getLsbD 2 = f.i ∧ f.pack.getLsbD 1 = f.z ∧ f.pack.getLsbD 0 = f.c) ∧
    f.pushed = f.pack + 0x10

/-- For every flag assignment, unpack(pack()) gives the same flags; for every byte b, unpack(b) then pack() gives (b & 0xCF) | 0x20; unpack ignores bits 4 and 5 of b. -/
def Obligations.StatusRoundTrip : Prop :=
  (∀ f : Flags, Flags.unpack f.pack = f) ∧
  (∀ b : Byte, (Flags.unpack b).pack = (b &&& 0xCF) ||| 0x20) ∧
  ∀ b : Byte, Flags.unpack (b ^^^ 0x30) = Flags.unpack b ∧ Flags.unpack (b ^^^ 0x10) = Flags.unpack b

/-- For all bytes a, m and carry-in: the result is the integer sum modulo 256; C is 1 iff the sum is 256 or more; V is 1 iff the signed sum with the carry-in leaves -128 to 127; V is also 1 iff a[7] = m[7] and r[7] differs from a[7]; Z and N are those of the result. -/
def Obligations.AdcCoreArithmetic : Prop :=
  ∀ (a m : Byte) (cin : Bool),
    let u := adcCore a m cin
    let total := a.toNat + m.toNat + cin.toNat
    let signed := a.toInt + m.toInt + (cin.toNat : Int)
    u.r.toNat = total % 256 ∧ u.c = decide (256 ≤ total) ∧ u.v = decide (signed < -128 ∨ 127 < signed) ∧
    u.v = (a.getLsbD 7 == m.getLsbD 7 && u.r.getLsbD 7 != a.getLsbD 7) ∧
    u.z = decide (u.r = 0x00) ∧ u.n = u.r.getLsbD 7

/-- For all bytes a, m and carry-in c, adc_core(a, m ^ 0xFF, c) gives (a - m - (1 - c)) modulo 256; C is 1 iff a >= m + (1 - c); V is 1 iff the signed difference leaves -128 to 127 (the spec marks this reading as derived from R140). -/
def Obligations.SbcBorrowArithmetic : Prop :=
  ∀ (a m : Byte) (c : Bool),
    let u := adcCore a (m ^^^ 0xFF) c
    let borrow := 1 - c.toNat
    let signed := a.toInt - m.toInt - (borrow : Int)
    u.r.toNat = (a.toNat + 512 - m.toNat - borrow) % 256 ∧ u.c = decide (m.toNat + borrow ≤ a.toNat) ∧
    u.v = decide (signed < -128 ∨ 127 < signed)

/-- For all register bytes r, operand bytes m and flags f: after cmp_core C is 1 iff r >= m as unsigned numbers, Z is 1 iff r = m, N is bit 7 of (r - m) modulo 256, and V, D, I are unchanged. -/
def Obligations.CmpCoreFlags : Prop :=
  ∀ (r m : Byte) (f : Flags),
    cmpCore r m f = { n := (r - m).getLsbD 7, v := f.v, d := f.d, i := f.i, z := decide (r = m), c := decide (m.toNat ≤ r.toNat) }

/-- In every state with canonical memory, after a write of v at an address that is no device a read of that address returns v; for every other address plain memory holds what it held, and the memory stays canonical. RAM64K is the spec's decision D12; that plain memory is RAM64K is the model's choice (log 2). -/
def Obligations.BusReadAfterWrite : Prop :=
  ∀ (s : State) (a : Addr) (v : Byte), s.mem.wf = true → s.isDevice a = false →
    (busRead a (busWrite a v s)).val = v ∧ (busWrite a v s).mem.wf = true ∧
    ∀ b : Addr, b ≠ a → (busWrite a v s).mem.read b.toNat = s.mem.read b.toNat

/-- For every state: Push8(v) makes one bus write of v at 0x0100|S and leaves S - 1 modulo 256; Pull8 leaves S + 1 modulo 256 and returns the byte one bus read at 0x0100|(S + 1) returns; nothing else changes; the slot is always in 0x0100 to 0x01FF; and a Pull8 directly after a Push8(v) reads the address just written, restores S, and returns v when memory there is plain and canonical (what plain memory is, log 2). -/
def Obligations.StackPushAndPull : Prop :=
  ∀ (s : State) (v : Byte),
    push8 v s = { s with sp := s.sp - 1, mem := stored s (0x0100 ||| s.sp.setWidth 16) v s.mem, busCount := s.busCount + 1,
                         accesses := s.accesses ++ [Access.write (0x0100 ||| s.sp.setWidth 16) v] } ∧
    (pull8 s).val = s.busValue 0 (0x0100 ||| (s.sp + 1).setWidth 16) ∧
    (pull8 s).st = { s with sp := s.sp + 1, busCount := s.busCount + 1,
                            accesses := s.accesses ++ [Access.read (0x0100 ||| (s.sp + 1).setWidth 16) (pull8 s).val] } ∧
    (256 ≤ (stackAddr s.sp).toNat ∧ (stackAddr s.sp).toNat ≤ 511) ∧
    (pull8 (push8 v s)).st.sp = s.sp ∧
    (pull8 (push8 v s)).st.accesses =
      s.accesses ++ [Access.write (stackAddr s.sp) v, Access.read (stackAddr s.sp) (pull8 (push8 v s)).val] ∧
    (s.mem.wf = true → s.isDevice (stackAddr s.sp) = false → (pull8 (push8 v s)).val = v)

/-- In every state with canonical memory whose two stack slots are plain memory: Push16(w) leaves the high byte of w at 0x0100|S, the low byte at 0x0100|(S - 1), S lowered by 2; Pull16 after it returns w and leaves S as it was (the spec derives R50 from R49). -/
def Obligations.StackWordRoundTrip : Prop :=
  ∀ (s : State) (w : Addr), s.mem.wf = true → s.isDevice (stackAddr s.sp) = false → s.isDevice (stackAddr (s.sp - 1)) = false →
    (push16 w s).mem.read (stackAddr s.sp).toNat = hi w ∧ (push16 w s).mem.read (stackAddr (s.sp - 1)).toNat = lo w ∧
    (push16 w s).sp = s.sp - 2 ∧ (pull16 (push16 w s)).val = w ∧ (pull16 (push16 w s)).st.sp = s.sp

/-- For every memory operand and every state at pc0, after the opcode fetch Resolve returns the address and the crossed flag that the mode's rule gives, has made exactly the reads R115 lists (R115 is marked derived; the in-page pointer wrap is G8), has moved PC to pc0 + length, and has changed no register, flag or memory byte; the zero-page modes stay in page 0. -/
def Obligations.ResolverComputesAddress : Prop :=
  ∀ (m : MemArg) (s : State),
    resolve m (fetchOpcode s) =
      { ea := ea m s, crossed := crossed m s,
        st := { s with pc := s.pc + BitVec.ofNat 16 m.mode.length, accesses := reads m s, busCount := s.busCount + (reads m s).length,
                       cycles := 0, cond := .none } } ∧
    (m.mode = .zp ∨ m.mode = .zpx ∨ m.mode = .zpy → (ea m s).toNat < 256)

/-- LDA #$10 = A9 10, STA $0200,X = 9D 00 02, ADC ($10),Y = 71 10, JMP ($30FF) = 6C FF 30, JSR $9000 = 20 00 90, BNE = D0 FC, LSR A = 4A, PHP = 08, SLO $0300,Y = 1B 00 03, SBC #$01 = EB 01, SHA ($10),Y = 93 10 decode to those instructions; the operand word is low byte first. -/
def Obligations.KnownWordsDecode : Prop :=
  decodeBytes [0xA9, 0x10] = .ok (.lda (.imm 0x10), []) ∧ decodeBytes [0x9D, 0x00, 0x02] = .ok (.sta (.abx 0x0200), []) ∧
  decodeBytes [0x71, 0x10] = .ok (.adc (.mem (.izy 0x10)), []) ∧ decodeBytes [0x6C, 0xFF, 0x30] = .ok (.jmp (.ind 0x30FF), []) ∧
  decodeBytes [0x20, 0x00, 0x90] = .ok (.jsr 0x9000, []) ∧ decodeBytes [0xD0, 0xFC] = .ok (.bne 0xFC, []) ∧
  decodeBytes [0x4A] = .ok (.lsr .acc, []) ∧ decodeBytes [0x08] = .ok (.php, []) ∧
  decodeBytes [0x1B, 0x00, 0x03] = .ok (.slo (.aby 0x0300), []) ∧ decodeBytes [0xEB, 0x01] = .ok (.sbcEb 0x01, []) ∧
  decodeBytes [0x93, 0x10] = .ok (.sha (.izy 0x10), [])

/-- For every well-formed instruction i with every operand value, and every byte string after it, decoding encode(i) followed by that string gives i and the string; the encoder is written from the rules' "Encodings" lines and the decoder from the map of R65. -/
def Obligations.DecodeEncodeRoundTrip : Prop :=
  ∀ (i : Instr) (rest : List Byte), i.wellFormed = true → decodeBytes (encode i ++ rest) = .ok (i, rest)

/-- For all bytes op, b1, b2 the decoder gives a well-formed instruction with opcode byte op, the mnemonic and mode of the table entry of op, and its encoding is the first length bytes of op, b1, b2. -/
def Obligations.EveryByteDecodes : Prop :=
  ∀ op b1 b2 : Byte,
    (decode op b1 b2).wellFormed = true ∧ (decode op b1 b2).opcode = op ∧
    (decode op b1 b2).mnemonic = (tableEntry op).mnemonic ∧ (decode op b1 b2).mode = (tableEntry op).mode ∧
    encode (decode op b1 b2) = [op, b1, b2].take (tableEntry op).length

/-- Of the 256 entries 47 have length 1, 128 length 2 and 81 length 3; the lengths add up to 546 and the base cycles to 1043; 32 carry the page-cross penalty and 8 the branch penalty; 151 opcode bytes are documented; the access classes have 24 implied, 4 accumulator, 24 immediate, 86 read, 17 write, 66 rmw, 4 stack, 14 control, 5 unstable, 12 halt entries. -/
def Obligations.DispatchTableCounts : Prop :=
  entryCount (fun e => e.length == 1) = 47 ∧ entryCount (fun e => e.length == 2) = 128 ∧ entryCount (fun e => e.length == 3) = 81 ∧
  entrySum Entry.length = 546 ∧ entrySum Entry.baseCycles = 1043 ∧ entryCount Entry.pageCross = 32 ∧
  entryCount Entry.branchPenalty = 8 ∧ ((List.range 256).filter fun n => documented (BitVec.ofNat 8 n)).length = 151 ∧
  [AccessClass.implied, .accumulator, .immediate, .read, .write, .rmw, .stack, .control, .unstable, .halt].map
    (fun c => entryCount fun e => e.accessClass == c) = [24, 4, 24, 86, 17, 66, 4, 14, 5, 12]

/-- For every encoding of the rule and every state, exec answers the next state in which A (X, Y) is M, Z and N come from M; PC is pc0 plus the length, the accesses and cycles are those of the rule, and nothing else changes. The encodings are exactly those of R120, R121, R122. -/
def Obligations.LdaLdxLdyLoad : Prop :=
  ReadClass .lda ldaRows withA ∧ ReadClass .ldx ldxRows withX ∧ ReadClass .ldy ldyRows withY

/-- For every encoding of the rule and every state, exec answers the next state in which the one bus write puts A (X, Y) at the effective address, every other byte of memory, every register and flag is as before (that an indexed store makes no other access is the spec's decision D6, log 12); PC is pc0 plus the length, the accesses and cycles are those of the rule, and nothing else changes. -/
def Obligations.StaStxStyStore : Prop :=
  WriteClass .sta staRows (fun s => s.a) ∧ WriteClass .stx stxRows (fun s => s.x) ∧ WriteClass .sty styRows (fun s => s.y)

/-- For every state, exec answers the next state in which the target register holds the source, Z and N come from the value moved (TXS: no flag changes), PC is pc0 + 1, the only access is the opcode fetch, 2 cycles, and nothing else changes. -/
def Obligations.RegisterTransfers : Prop :=
  ImpliedClass .tax 0xAA (fun s => withX s.a s) ∧ ImpliedClass .tay 0xA8 (fun s => withY s.a s) ∧
  ImpliedClass .txa 0x8A (fun s => withA s.x s) ∧ ImpliedClass .tya 0x98 (fun s => withA s.y s) ∧
  ImpliedClass .tsx 0xBA (fun s => withX s.sp s) ∧ ImpliedClass .txs 0x9A (fun s => { s with sp := s.x })

/-- For every encoding of the rule and every state, exec answers the next state in which A and C, V, Z, N are adc_core(A, M, C), for SBC adc_core(A, M ^ 0xFF, C); D, I and the other registers are kept; PC is pc0 plus the length, the accesses and cycles are those of the rule, and nothing else changes. SBC 0xEB does exactly what SBC #imm does, and its mnemonic is SBC. (That the result is a subtraction, R143, is SbcBorrowArithmetic.) -/
def Obligations.AdcSbcAccumulate : Prop :=
  ReadClass .adc adcRows added ∧ ReadClass .sbc sbcRows (fun m s => added (m ^^^ 0xFF) s) ∧
  ImmClass .sbcEb 0xEB (fun m s => added (m ^^^ 0xFF) s) ∧
  (∀ b s, exec (.sbcEb b) s = exec (.sbc (.imm b)) s) ∧ ∀ b, (Instr.sbcEb b).mnemonic = .sbc

/-- For every encoding of the rule and every state, exec answers the next state in which A is A & M, A | M, A ^ M, Z and N come from it, C and V are kept; PC is pc0 plus the length, the accesses and cycles are those of the rule, and nothing else changes. -/
def Obligations.LogicOperations : Prop :=
  ReadClass .and andRows (fun m s => withA (s.a &&& m) s) ∧ ReadClass .ora oraRows (fun m s => withA (s.a ||| m) s) ∧
  ReadClass .eor eorRows (fun m s => withA (s.a ^^^ m) s)

/-- For every encoding of the rule and every state, exec answers the next state in which C is 1 iff the register is at least M, Z iff they are equal, N is the top bit of the difference, V and the register are kept; PC is pc0 plus the length, the accesses and cycles are those of the rule, and nothing else changes. -/
def Obligations.CompareOperations : Prop :=
  ReadClass .cmp cmpRows (fun m s => { s with flags := compared s.a m s.flags }) ∧
  ReadClass .cpx cpxRows (fun m s => { s with flags := compared s.x m s.flags }) ∧
  ReadClass .cpy cpyRows (fun m s => { s with flags := compared s.y m s.flags })

/-- For every encoding of the rule and every state, exec answers the next state in which Z is 1 iff A & M is 0, N is M[7], V is M[6], C, D, I and A are kept, after one read of the operand; PC is pc0 plus the length, the accesses and cycles are those of the rule, and nothing else changes. -/
def Obligations.BitTest : Prop :=
  MemReadClass .bit bitRows fun m s =>
    { s with flags := { s.flags with z := decide (s.a &&& m = 0x00), n := m.getLsbD 7, v := m.getLsbD 6 } }

/-- For every encoding of the rule and every state, exec answers the next state in which the byte is shifted by one, the bit shifted out is in C, a rotate puts the old C into the vacated bit, Z and N come from the new byte; on memory the unmodified byte is written first and then the new one (that all rmw entries do so is the spec's decision D6, log 13); on A there is no access after the opcode fetch; PC is pc0 plus the length, the accesses and cycles are those of the rule, and nothing else changes. -/
def Obligations.ShiftsAndRotates : Prop :=
  ShiftClass .asl aslRows aslOf ∧ ShiftClass .lsr lsrRows lsrOf ∧ ShiftClass .rol rolRows rolOf ∧ ShiftClass .ror rorRows rorOf

/-- For every encoding of the rule and every state, exec answers the next state in which memory at the effective address is written with the old byte and then with old + 1 (old - 1) modulo 256, Z and N come from the new byte, C and V are kept (the first write is the spec's decision D6, log 13); PC is pc0 plus the length, the accesses and cycles are those of the rule, and nothing else changes. -/
def Obligations.MemoryIncrementDecrement : Prop :=
  RmwClass .inc incRows (fun old s => (old + 1, { s with flags := zn (old + 1) s.flags })) ∧
  RmwClass .dec decRows (fun old s => (old - 1, { s with flags := zn (old - 1) s.flags }))

/-- For every state, exec answers the next state in which the register is 1 more (less) modulo 256, Z and N come from it, C and V are kept, PC is pc0 + 1, 2 cycles, no access after the opcode fetch, and nothing else changes. -/
def Obligations.RegisterIncrementDecrement : Prop :=
  ImpliedClass .inx 0xE8 (fun s => withX (s.x + 1) s) ∧ ImpliedClass .iny 0xC8 (fun s => withY (s.y + 1) s) ∧
  ImpliedClass .dex 0xCA (fun s => withX (s.x - 1) s) ∧ ImpliedClass .dey 0x88 (fun s => withY (s.y - 1) s)

/-- For every state: PHA writes A and PHP writes pack() | 0x10 at 0x0100|S and lower S by 1, no flag changes; PLA and PLP raise S by 1 and take the byte at 0x0100|(S + 1) into A with Z and N, or into the six flags; PC is pc0 + 1, 3 and 4 cycles, the accesses are the opcode fetch and that one, and nothing else changes. -/
def Obligations.StackInstructions : Prop :=
  Instr.pha.opcode = 0x48 ∧ Instr.pla.opcode = 0x68 ∧ Instr.php.opcode = 0x08 ∧ Instr.plp.opcode = 0x28 ∧
  (∀ s, exec .pha s = .next (retired s { s with sp := s.sp - 1, mem := stored s (stackAddr s.sp) s.a s.mem } 1
    (fetched s 1 ++ [Access.write (stackAddr s.sp) s.a]) 3)) ∧
  (∀ s, exec .php s = .next (retired s { s with sp := s.sp - 1, mem := stored s (stackAddr s.sp) (s.flags.pack ||| 0x10) s.mem } 1
    (fetched s 1 ++ [Access.write (stackAddr s.sp) (s.flags.pack ||| 0x10)]) 3)) ∧
  (∀ s, let v := s.busValue 1 (stackAddr (s.sp + 1))
    exec .pla s = .next (retired s { withA v s with sp := s.sp + 1 } 1 (fetched s 1 ++ [Access.read (stackAddr (s.sp + 1)) v]) 4)) ∧
  ∀ s, let v := s.busValue 1 (stackAddr (s.sp + 1))
    exec .plp s = .next (retired s { s with sp := s.sp + 1, flags := Flags.unpack v } 1
      (fetched s 1 ++ [Access.read (stackAddr (s.sp + 1)) v]) 4)

/-- For every state, exec answers the next state in which the named flag has the named value, PC is pc0 + 1, 2 cycles, no access after the opcode fetch, and no register and no other flag changes. -/
def Obligations.FlagInstructions : Prop :=
  ImpliedClass .clc 0x18 (fun s => withC false s) ∧ ImpliedClass .sec 0x38 (fun s => withC true s) ∧
  ImpliedClass .cli 0x58 (fun s => { s with flags := { s.flags with i := false } }) ∧
  ImpliedClass .sei 0x78 (fun s => { s with flags := { s.flags with i := true } }) ∧
  ImpliedClass .cld 0xD8 (fun s => { s with flags := { s.flags with d := false } }) ∧
  ImpliedClass .sed 0xF8 (fun s => { s with flags := { s.flags with d := true } }) ∧
  ImpliedClass .clv 0xB8 (fun s => { s with flags := { s.flags with v := false } })

/-- For every state: NOP (0xEA), the six implied variants, the two-byte and the three-byte variants answer a next state that differs in PC (pc0 plus the length) and in what the step returns only; zp, zpx, abs, abx variants read the effective address once (the spec's decision D7, log 14); the abx variants pay the page-cross cycle. -/
def Obligations.NoOperations : Prop :=
  ImpliedClass .nop 0xEA (fun s => s) ∧
  (∀ code ∈ Instr.nopImpCodes, ImpliedClass (.nopImp code) code (fun s => s)) ∧
  (∀ r ∈ dopRows, ∀ src s, src.mode = r.mode → (Instr.nopDop r.code src).wellFormed = true ∧ (Instr.nopDop r.code src).opcode = r.code ∧
    exec (.nopDop r.code src) s = .next (retired s s 2 (srcReads src s) r.cycles)) ∧
  ∀ r ∈ topRows, ∀ m s, m.mode = r.mode → (Instr.nopTop r.code m).wellFormed = true ∧ (Instr.nopTop r.code m).opcode = r.code ∧
    exec (.nopTop r.code m) s = .next (retired s s 3 (reads m s ++ [Access.read (ea m s) (atEa m s)]) (r.total (crossed m s)))

/-- For every state: JMP abs sets PC to the operand, 3 cycles, three fetches; JMP (ind) reads the low byte at the pointer and the high byte at (pointer & 0xFF00) | ((pointer + 1) & 0xFF), sets PC to that word, 5 cycles; that second address keeps the page of the pointer and adds 1 to its low byte; nothing else changes. -/
def Obligations.JumpTargets : Prop :=
  (∀ w s, (Instr.jmp (.abs w)).opcode = 0x4C ∧ exec (.jmp (.abs w)) s = .next (jumped s s w (fetched s 3) 3)) ∧
  (∀ w s, let second : Addr := (w &&& 0xFF00) ||| ((w + 1) &&& 0x00FF)
    (Instr.jmp (.ind w)).opcode = 0x6C ∧
    exec (.jmp (.ind w)) s = .next (jumped s s (word (s.busValue 4 second) (s.busValue 3 w))
      (fetched s 3 ++ [Access.read w (s.busValue 3 w), Access.read second (s.busValue 4 second)]) 5)) ∧
  ∀ w : Addr, hi (jmpPointerHigh w) = hi w ∧ lo (jmpPointerHigh w) = lo w + 1

/-- For every state and target, exec answers the next state with PC = target, the high byte of pc0 + 2 written at 0x0100|S and then the low byte at 0x0100|(S - 1), S lowered by 2, 6 cycles, both operand bytes fetched before the pushes (the spec's decision D6, log 12), no flag and no other register changed. -/
def Obligations.JsrPushesAndJumps : Prop :=
  ∀ w s, let ret : Addr := s.pc + 2
    (Instr.jsr w).opcode = 0x20 ∧
    exec (.jsr w) s = .next (jumped s
      { s with sp := s.sp - 2,
               mem := stored s (stackAddr (s.sp - 1)) (lo ret) (stored s (stackAddr s.sp) (hi ret) s.mem) }
      w (fetched s 3 ++ [Access.write (stackAddr s.sp) (hi ret), Access.write (stackAddr (s.sp - 1)) (lo ret)]) 6)

/-- For every state, RTS answers the next state with PC the pulled word plus 1 modulo 65536, S raised by 2, the two stack reads, 6 cycles, no flag changed. For every target, from every state with canonical memory whose two stack slots are plain memory, JSR followed by RTS ends with PC = pc0 + 3 and S restored. -/
def Obligations.RtsReturns : Prop :=
  Instr.rts.opcode = 0x60 ∧
  (∀ s, let l := s.busValue 1 (stackAddr (s.sp + 1))
    let h := s.busValue 2 (stackAddr (s.sp + 2))
    exec .rts s = .next (jumped s { s with sp := s.sp + 2 } (word h l + 1)
      (fetched s 1 ++ [Access.read (stackAddr (s.sp + 1)) l, Access.read (stackAddr (s.sp + 2)) h]) 6)) ∧
  ∀ w s, s.mem.wf = true → s.isDevice (stackAddr s.sp) = false → s.isDevice (stackAddr (s.sp - 1)) = false →
    ∃ t u, exec (.jsr w) s = .next t ∧ exec .rts t = .next u ∧ u.pc = s.pc + 3 ∧ u.sp = s.sp

/-- For every state, BRK answers the next state with the high and low byte of pc0 + 2 and then pack() | 0x10 (I as it was) written at 0x0100|S, 0x0100|(S - 1), 0x0100|(S - 2), S lowered by 3, I = 1, PC the word read at 0xFFFE and 0xFFFF low byte first, 7 cycles, and no other register or flag changed. That the padding byte is not fetched is the spec's decision D6 (log 12). -/
def Obligations.BrkEntersHandler : Prop :=
  ∀ s, let ret : Addr := s.pc + 2
    let p := s.flags.pack ||| 0x10
    let l := s.busValue 4 0xFFFE
    let h := s.busValue 5 0xFFFF
    Instr.brk.opcode = 0x00 ∧
    exec .brk s = .next (jumped s
      { s with sp := s.sp - 3, flags := { s.flags with i := true },
               mem := stored s (stackAddr (s.sp - 2)) p
                 (stored s (stackAddr (s.sp - 1)) (lo ret) (stored s (stackAddr s.sp) (hi ret) s.mem)) }
      (word h l)
      (fetched s 1 ++ [Access.write (stackAddr s.sp) (hi ret), Access.write (stackAddr (s.sp - 1)) (lo ret), Access.write (stackAddr (s.sp - 2)) p,
        Access.read 0xFFFE l, Access.read 0xFFFF h]) 7)

/-- For every state, RTI answers the next state with the six flags from the byte at 0x0100|(S + 1), PC the word at the next two slots, low byte first, S raised by 3, 6 cycles, nothing else changed. From every state with canonical memory whose three stack slots are plain memory, BRK followed by RTI ends with PC = pc0 + 2, the six flags and S as before (the spec derives this from R203). -/
def Obligations.RtiReturns : Prop :=
  Instr.rti.opcode = 0x40 ∧
  (∀ s, let p := s.busValue 1 (stackAddr (s.sp + 1))
    let l := s.busValue 2 (stackAddr (s.sp + 2))
    let h := s.busValue 3 (stackAddr (s.sp + 3))
    exec .rti s = .next (jumped s { s with sp := s.sp + 3, flags := Flags.unpack p } (word h l)
      (fetched s 1 ++ [Access.read (stackAddr (s.sp + 1)) p, Access.read (stackAddr (s.sp + 2)) l, Access.read (stackAddr (s.sp + 3)) h]) 6)) ∧
  ∀ s, s.mem.wf = true → s.isDevice (stackAddr s.sp) = false → s.isDevice (stackAddr (s.sp - 1)) = false →
    s.isDevice (stackAddr (s.sp - 2)) = false →
    ∃ t u, exec .brk s = .next t ∧ exec .rti t = .next u ∧ u.pc = s.pc + 2 ∧ u.flags = s.flags ∧ u.sp = s.sp

/-- For every displacement and state: BPL, BMI, BVC, BVS, BCC, BCS, BNE, BEQ test N = 0, N = 1, V = 0, V = 1, C = 0, C = 1, Z = 0, Z = 1; if the condition holds PC is pc0 + 2 plus the sign-extended displacement modulo 65536, else pc0 + 2; two fetches; 2 cycles, 3 if taken, 4 if taken into another page (the penalties are G2, decision D19); nothing else changes. -/
def Obligations.BranchesOnFlags : Prop :=
  BranchClass .bpl 0x10 (fun f => !f.n) ∧ BranchClass .bmi 0x30 (fun f => f.n) ∧
  BranchClass .bvc 0x50 (fun f => !f.v) ∧ BranchClass .bvs 0x70 (fun f => f.v) ∧
  BranchClass .bcc 0x90 (fun f => !f.c) ∧ BranchClass .bcs 0xB0 (fun f => f.c) ∧
  BranchClass .bne 0xD0 (fun f => !f.z) ∧ BranchClass .beq 0xF0 (fun f => f.z)

/-- For every encoding of the rule and every state, exec answers the next state in which memory gets the shifted (rotated) byte, C the bit shifted out, A is A | new, A & new, A ^ new, Z and N come from the final A (the double write is the spec's decision D6, log 13); PC is pc0 plus the length, the accesses and cycles are those of the rule, and nothing else changes. -/
def Obligations.FusedShiftLogic : Prop :=
  RmwClass .slo sloRows (fused aslOf fun new s => withA (s.a ||| new) s) ∧
  RmwClass .rla rlaRows (fused rolOf fun new s => withA (s.a &&& new) s) ∧
  RmwClass .sre sreRows (fused lsrOf fun new s => withA (s.a ^^^ new) s)

/-- For every encoding of the rule and every state, exec answers the next state in which RRA: memory is rotated right, then A, C, V, Z, N are adc_core(A, new, C of the rotate); DCP: memory is decremented, C, Z, N compare A with it, A is kept; ISB: memory is incremented, then A, C, V, Z, N are adc_core(A, new ^ 0xFF, C) (the double write is the spec's decision D6, log 13); PC is pc0 plus the length, the accesses and cycles are those of the rule, and nothing else changes. -/
def Obligations.FusedArithmetic : Prop :=
  RmwClass .rra rraRows (fused rorOf added) ∧
  RmwClass .dcp dcpRows (fun old s => (old - 1, { s with flags := compared s.a (old - 1) s.flags })) ∧
  RmwClass .isb isbRows (fun old s => (old + 1, added ((old + 1) ^^^ 0xFF) s))

/-- For every encoding of the rule and every state, exec answers the next state in which LAX: A = X = M, Z and N from M; SAX: one write of A & X at the effective address, no flag, no other access (the spec's decision D6, log 12); LAS (0xBB, mode AbsoluteY): A = X = S = M & S, Z and N from it, no stack access; PC is pc0 plus the length, the accesses and cycles are those of the rule, and nothing else changes. -/
def Obligations.LaxSaxLas : Prop :=
  MemReadClass .lax laxRows (fun m s => { withA m s with x := m }) ∧ WriteClass .sax saxRows (fun s => s.a &&& s.x) ∧
  ∀ w s, let m := atEa (.aby w) s
    (Instr.las w).opcode = 0xBB ∧
    exec (.las w) s = .next (retired s { withA (m &&& s.sp) s with x := m &&& s.sp, sp := m &&& s.sp } 3
      (reads (.aby w) s ++ [Access.read (ea (.aby w) s) m]) (4 + if crossed (.aby w) s then 1 else 0))

/-- For every byte and state: ANC (0B and 2B) gives A = A & M, Z, N from it and C = N; ASR gives A = (A & M) >> 1, C the bit shifted out; ARR rotates A & M right through C, C = A[6], V = A[6] ^ A[5] of the new A; SBX gives X = (A & X) - M modulo 256, C iff no borrow, A and V kept; PC is pc0 + 2, two fetches, 2 cycles, nothing else changes. -/
def Obligations.ImmediateCombinations : Prop :=
  (∀ code ∈ Instr.ancCodes, ImmClass (.anc code) code (fun m s => withC ((s.a &&& m).getLsbD 7) (withA (s.a &&& m) s))) ∧
  ImmClass .asr 0x4B (fun m s => withC ((s.a &&& m).getLsbD 0) (withA ((s.a &&& m) >>> 1) s)) ∧
  ImmClass .arr 0x6B (fun m s =>
    let r := ((s.a &&& m) >>> 1) ||| (bitOf s.flags.c <<< 7)
    { withA r s with flags := { zn r s.flags with c := r.getLsbD 6, v := r.getLsbD 6 != r.getLsbD 5 } }) ∧
  ImmClass .sbx 0xCB (fun m s => withC (decide (m.toNat ≤ (s.a &&& s.x).toNat)) (withX ((s.a &&& s.x) - m) s))

/-- For every byte and state, whatever ANE_MAGIC and LXA_MAGIC are (open parameters by the spec's decision D9, log 10): ANE gives A = (A | ANE_MAGIC) & X & M with Z and N; LXA gives A = X = (A | LXA_MAGIC) & M with Z and N; PC is pc0 + 2, 2 cycles, nothing else changes; with M = 0 or X = 0 ANE leaves A = 0 and Z = 1. -/
def Obligations.AneLxaForEveryMagic : Prop :=
  ImmClass .ane 0x8B (fun m s => withA ((s.a ||| Config.aneMagic) &&& s.x &&& m) s) ∧
  ImmClass .lxa 0xAB (fun m s =>
    { withA ((s.a ||| Config.lxaMagic) &&& m) s with x := (s.a ||| Config.lxaMagic) &&& m }) ∧
  ∀ b s, b = 0x00 ∨ s.x = 0x00 → ∃ t, exec (.ane b) s = .next t ∧ t.a = 0x00 ∧ t.flags.z = true ∧ t.flags.n = false

/-- For every operand and state: SHA (9F, 93), SHS (9B), SHX (9E), SHY (9C) answer the next state that has every register, flag, the run state, PC and memory as before, the one access being the read of the opcode byte, the condition Unstable with the opcode byte, and 0 cycles. Holding the condition in a next state is the model's form of the signal (log 8); 0 cycles is the spec's decision D10. -/
def Obligations.UnstableOpcodesSignal : Prop :=
  let signalled (op : Byte) (s : State) : State :=
    { s with accesses := fetched s 1, busCount := s.busCount + 1, cycles := 0, cond := .unstable op }
  (∀ w s, exec (.sha (.aby w)) s = .next (signalled 0x9F s)) ∧ (∀ z s, exec (.sha (.izy z)) s = .next (signalled 0x93 s)) ∧
  (∀ w s, exec (.shs w) s = .next (signalled 0x9B s)) ∧ (∀ w s, exec (.shx w) s = .next (signalled 0x9E s)) ∧
  ∀ w s, exec (.shy w) s = .next (signalled 0x9C s)

/-- For each JAM byte and every state, exec answers the next state with run = Halted, the condition Halted, 0 cycles, the one read of the opcode byte, and every register, flag, PC and memory as before; the step after that makes no bus access and answers a state with the same registers, flags, PC and memory, still Halted, and every further step answers that same state. Holding the condition in a next state is the model's form (log 9); 0 cycles and no access in Halted are the spec's decisions D10 and D20. -/
def Obligations.JamHalts : Prop :=
  ∀ code ∈ Instr.jamCodes, ∀ s,
    let jammed : State :=
      { s with accesses := fetched s 1, busCount := s.busCount + 1, cycles := 0, cond := .halted, run := .halted }
    let idle : State := { jammed with accesses := [] }
    (Instr.jam code).opcode = code ∧ exec (.jam code) s = .next jammed ∧ step jammed = .next idle ∧ step idle = .next idle

/-- In every running state, if the bytes that accesses 0, 1, 2 return at PC, PC + 1, PC + 2 begin with the encoding of a well-formed instruction i, then step is exec of i on that very state; step adds nothing around it (the fetches are made by the meaning, log 18). -/
def Obligations.StepRunsDecoded : Prop :=
  ∀ (s : State) (i : Instr), s.run = .running → i.wellFormed = true →
    encode i = [s.busValue 0 s.pc, s.busValue 1 (s.pc + 1), s.busValue 2 (s.pc + 2)].take i.mode.length →
    step s = exec i s

/-- In every halted state, step answers the same state with an empty access list, 0 cycles and the condition Halted (zero accesses and zero cycles are the spec's decision D20, log 20). -/
def Obligations.HaltedStepDoesNothing : Prop :=
  ∀ s : State, s.run = .halted → step s = .next { s with accesses := [], cycles := 0, cond := .halted }

/-- For every state, step answers a next state. (ANE and LXA use open constants; the unstable opcodes answer a next state that carries the condition, log 8.) -/
def Obligations.EveryStepAnswers : Prop :=
  ∀ s : State, ∃ t, step s = .next t

/-- For every state in which memory is in its canonical form and the returned condition is Halted exactly if the core is Halted, the next state of a step has both again. (Canonical memory is the model's representation, log 2.) -/
def Obligations.StepKeepsInvariant : Prop :=
  ∀ s t : State, s.Inv → step s = .next t → t.Inv

/-- State.reset has canonical memory and its condition agrees with its run state (the returned condition at reset is the model's field, log 21). -/
def Obligations.ResetMeetsInvariant : Prop :=
  State.reset.Inv

/-- From every state, Halted included: A = X = Y = 0, S = 0xFD, pack() = 0x24 (I set, the rest clear: the spec's decision D2, log 5), run = Running, PC the word at 0xFFFC low byte first, memory untouched, the two reads in that order, no cycles (same values as power-on: decision D3, log 7). State.reset is power-on with nothing in memory (log 4, 6). set_pc writes PC and nothing else. -/
def Obligations.ResetValues : Prop :=
  (∀ s : State,
    let l := s.busValue 0 0xFFFC
    let h := s.busValue 1 0xFFFD
    s.hostReset =
      { a := 0x00, x := 0x00, y := 0x00, sp := 0xFD, pc := word h l,
        flags := { n := false, v := false, d := false, i := true, z := false, c := false }, run := .running, mem := s.mem,
        devices := s.devices, busCount := s.busCount + 2, accesses := [Access.read 0xFFFC l, Access.read 0xFFFD h], cycles := 0, cond := .none } ∧
    s.hostReset.flags.pack = 0x24) ∧
  State.powerOn [] [] = State.reset ∧ ∀ (s : State) (w : Addr), s.setPc w = { s with pc := w }

/-- For every running state and its next state: the next state is Halted iff the instruction at PC is a JAM; the condition is Unstable iff it is SHA, SHS, SHX or SHY, and None otherwise. -/
def Obligations.OnlyJamHalts : Prop :=
  ∀ s t : State, s.run = .running → step s = .next t →
    (t.run = .halted ↔ s.nextInstr.mnemonic = .jam) ∧
    (t.cond = .halted ↔ s.nextInstr.mnemonic = .jam) ∧
    ((∃ op, t.cond = .unstable op) ↔ s.nextInstr.mnemonic ∈ [Mnemonic.sha, .shs, .shx, .shy])

/-- For every instruction, state and next state: unless its mnemonic is in R13's list for the flag (PLP and RTI write all six), N and Z, C, V, D, I are as before. -/
def Obligations.FlagsHaveTheirWriters : Prop :=
  ∀ (i : Instr) (s t : State), exec i s = .next t →
    (i.mnemonic ∉ znWriters → t.flags.n = s.flags.n ∧ t.flags.z = s.flags.z) ∧
    (i.mnemonic ∉ cWriters → t.flags.c = s.flags.c) ∧ (i.mnemonic ∉ vWriters → t.flags.v = s.flags.v) ∧
    (i.mnemonic ∉ dWriters → t.flags.d = s.flags.d) ∧ (i.mnemonic ∉ iWriters → t.flags.i = s.flags.i)

/-- For every instruction, state and next state: unless the mnemonic is PHA, PLA, PHP, PLP, JSR, RTS, BRK, RTI, TXS or LAS, S is as before. -/
def Obligations.StackPointerHasItsWriters : Prop :=
  ∀ (i : Instr) (s t : State), exec i s = .next t → i.mnemonic ∉ spWriters → t.sp = s.sp

/-- For every instruction, state and next state: every address that no write of the step's access list names reads as before, and the first access of the step is the read of pc0. (The access list is the model's field, log 1.) -/
def Obligations.MemoryChangesOnlyByBusWrites : Prop :=
  ∀ (i : Instr) (s t : State), exec i s = .next t →
    (∀ a : Addr, (∀ v, Access.write a v ∉ t.accesses) → t.mem.read a.toNat = s.mem.read a.toNat) ∧
    t.accesses.head? = some (Access.read s.pc (s.busValue 0 s.pc)) ∧ t.busCount = s.busCount + t.accesses.length

/-- For every state and its next state: the cycle count is 0 iff the condition is not None, and otherwise at least 2 and at most 8 (0 for signalling steps is the spec's decision D10, the counts are G2, log 15). -/
def Obligations.ZeroCyclesExactlyWhenSignalled : Prop :=
  ∀ s t : State, step s = .next t →
    (t.cycles = 0 ↔ t.cond ≠ .none) ∧ (t.cond = .none → 2 ≤ t.cycles ∧ t.cycles ≤ 8)

/-- For every instruction other than those that push or write D or I (PHP, BRK, PLP, RTI, CLD, SED, CLI, SEI): executing it from a state with D and I set to any values gives the same next state but for those two flags, which keep their values (D15, D4). -/
def Obligations.DecimalAndInterruptFlagsInert : Prop :=
  ∀ (i : Instr) (s t : State) (d0 i0 : Bool),
    i.mnemonic ∉ [Mnemonic.php, .brk, .plp, .rti, .cld, .sed, .cli, .sei] → exec i s = .next t →
    exec i (withDI d0 i0 s) = .next (withDI d0 i0 t)

/-- For every running state with no device regions: if a step signals Unstable(op), the next step signals Unstable(op) again and the state differs in the number of bus accesses made only (R83); after the host's set_pc the core steps on from there. -/
def Obligations.UnstableStepRepeats : Prop :=
  ∀ (s t : State) (op : Byte), s.run = .running → s.devices = [] → step s = .next t → t.cond = .unstable op →
    step t = .next { t with busCount := t.busCount + 1 } ∧
    ∀ w, ∃ u, step (t.setPc w) = .next u ∧ step (t.setPc w) = exec (t.setPc w).nextInstr (t.setPc w)

/-- For every state, observe gives PC, A, X, Y, S, pack() and the run state of that state; for every well-formed instruction the mnemonic of its opcode byte is the instruction's (the three-letter text is decision D8). -/
def Obligations.ObservationPort : Prop :=
  (∀ s : State, s.observe = { pc := s.pc, a := s.a, x := s.x, y := s.y, sp := s.sp, p := s.flags.pack, run := s.run }) ∧
  ∀ i : Instr, i.wellFormed = true → mnemonicOf i.opcode = i.mnemonic.text

/-- For every state with canonical memory, every word of at least 8 bits and the instruction i the decoder reads from it: in the state with that word placed at PC, step is exec of i. Placing stands for the platform's having a program there (the model's operation, log 6). -/
def Obligations.PlacedWordRuns : Prop :=
  ∀ (s : State) (nbits w : Nat) (i : Instr), s.mem.wf = true → decodeTableWord nbits w = some i →
    step (s.withFetchWord nbits w) = exec i (s.withFetchWord nbits w)
end

