-- ==== Sys2Proof/Laws/Memory.lean ====
section
/-! SUPPORT. Plain memory: a byte reads as it was written, a write leaves every other byte alone, and both keep the canonical form. -/

namespace Sys2Proof.Machine

@[simp] theorem Memory.read_nil (a : Nat) : Memory.read [] a = Memory.unlisted := rfl

@[simp] theorem Memory.wf_nil : Memory.wf [] = true := rfl

theorem Memory.wfFrom_cons {low a : Nat} {v : Byte} {m : Memory} :
    Memory.wfFrom low ((a, v) :: m) = true ↔
      low ≤ a ∧ a < 65536 ∧ v ≠ Memory.unlisted ∧ Memory.wfFrom (a + 1) m = true := by
  simp [Memory.wfFrom, and_assoc]

theorem Memory.wfFrom_mono {m : Memory} {low low' : Nat} (h : low' ≤ low) (hm : Memory.wfFrom low m = true) :
    Memory.wfFrom low' m = true := by
  cases m with
  | nil => rfl
  | cons c m =>
    obtain ⟨a, v⟩ := c
    rw [Memory.wfFrom_cons] at hm ⊢
    exact ⟨h.trans hm.1, hm.2⟩

/-- Below its first address a canonical memory lists nothing. -/
theorem Memory.read_below {m : Memory} {low a : Nat} (hm : Memory.wfFrom low m = true) (h : a < low) :
    Memory.read m a = Memory.unlisted := by
  induction m generalizing low with
  | nil => rfl
  | cons c m ih =>
    obtain ⟨b, v⟩ := c
    obtain ⟨h1, -, -, h4⟩ := Memory.wfFrom_cons.mp hm
    simp only [Memory.read, if_neg (show a ≠ b by omega)]
    exact ih h4 (by omega)

theorem Memory.write_wfFrom {m : Memory} {low a : Nat} (v : Byte) (hl : low ≤ a) (ha : a < 65536)
    (hm : Memory.wfFrom low m = true) : Memory.wfFrom low (Memory.write m a v) = true := by
  induction m generalizing low with
  | nil =>
    by_cases hv : v = Memory.unlisted
    · simp [Memory.write, hv, Memory.wfFrom]
    · simp only [Memory.write, if_neg hv]
      exact Memory.wfFrom_cons.mpr ⟨hl, ha, hv, rfl⟩
  | cons c m ih =>
    obtain ⟨b, w⟩ := c
    obtain ⟨h1, h2, h3, h4⟩ := Memory.wfFrom_cons.mp hm
    simp only [Memory.write]
    split
    · split
      · exact hm
      · exact Memory.wfFrom_cons.mpr ⟨hl, ha, ‹_›, Memory.wfFrom_cons.mpr ⟨by omega, h2, h3, h4⟩⟩
    · split
      · split
        · exact Memory.wfFrom_mono (by omega) h4
        · exact Memory.wfFrom_cons.mpr ⟨h1, h2, ‹_›, h4⟩
      · exact Memory.wfFrom_cons.mpr ⟨h1, h2, h3, ih (by omega) h4⟩

/-- A write at a 16-bit address keeps the canonical form. -/
theorem Memory.write_wf {m : Memory} (a : Addr) (v : Byte) (hm : m.wf = true) : (m.write a.toNat v).wf = true :=
  Memory.write_wfFrom v (Nat.zero_le _) a.isLt hm

/-- In canonical memory a byte reads as it was written. -/
theorem Memory.read_write_same {m : Memory} {low : Nat} (a : Nat) (v : Byte) (hm : Memory.wfFrom low m = true) :
    Memory.read (Memory.write m a v) a = v := by
  induction m generalizing low with
  | nil =>
    by_cases hv : v = Memory.unlisted
    · simp [Memory.write, hv]
    · simp [Memory.write, Memory.read, hv]
  | cons c m ih =>
    obtain ⟨b, w⟩ := c
    obtain ⟨-, -, -, h4⟩ := Memory.wfFrom_cons.mp hm
    simp only [Memory.write]
    split
    · rename_i hab
      split
      · rename_i hv
        simp only [Memory.read, if_neg (show a ≠ b by omega)]
        rw [hv]
        exact Memory.read_below h4 (by omega)
      · simp [Memory.read]
    · split
      · rename_i hab
        split
        · rename_i hv
          rw [hv]
          exact Memory.read_below h4 (by omega)
        · simp [Memory.read, hab]
      · rename_i hab
        simp only [Memory.read, if_neg hab]
        exact ih h4

theorem Memory.read_write_self {m : Memory} (a : Addr) (v : Byte) (hm : m.wf = true) :
    (m.write a.toNat v).read a.toNat = v :=
  Memory.read_write_same a.toNat v hm

/-- A write leaves every other address alone, in any list. -/
theorem Memory.read_write_ne {m : Memory} {a b : Nat} (v : Byte) (h : b ≠ a) :
    Memory.read (Memory.write m a v) b = Memory.read m b := by
  induction m with
  | nil =>
    by_cases hv : v = Memory.unlisted
    · simp [Memory.write, hv]
    · simp [Memory.write, Memory.read, hv, h]
  | cons c m ih =>
    obtain ⟨d, w⟩ := c
    simp only [Memory.write]
    split
    · split
      · rfl
      · simp [Memory.read, h]
    · split
      · rename_i hd
        split
        · simp [Memory.read, show b ≠ d by omega]
        · simp [Memory.read, show b ≠ d by omega]
      · simp only [Memory.read, ih]

end Sys2Proof.Machine
end

