-- ==== Sys2Proof/Laws/State.lean ====
section
/-! SUPPORT. One lemma per field per update of the state, true by rfl, so that no later proof unfolds a record update; and the same for
the updates of the flags. -/

namespace Sys2Proof.Machine

/-! ### setA -/

@[simp] theorem setA_a (s : State) (v : Byte) : (s.setA v).a = v := rfl
@[simp] theorem setA_x (s : State) (v : Byte) : (s.setA v).x = s.x := rfl
@[simp] theorem setA_y (s : State) (v : Byte) : (s.setA v).y = s.y := rfl
@[simp] theorem setA_sp (s : State) (v : Byte) : (s.setA v).sp = s.sp := rfl
@[simp] theorem setA_pc (s : State) (v : Byte) : (s.setA v).pc = s.pc := rfl
@[simp] theorem setA_flags (s : State) (v : Byte) : (s.setA v).flags = s.flags := rfl
@[simp] theorem setA_run (s : State) (v : Byte) : (s.setA v).run = s.run := rfl
@[simp] theorem setA_mem (s : State) (v : Byte) : (s.setA v).mem = s.mem := rfl
@[simp] theorem setA_devices (s : State) (v : Byte) : (s.setA v).devices = s.devices := rfl
@[simp] theorem setA_busCount (s : State) (v : Byte) : (s.setA v).busCount = s.busCount := rfl
@[simp] theorem setA_accesses (s : State) (v : Byte) : (s.setA v).accesses = s.accesses := rfl
@[simp] theorem setA_cycles (s : State) (v : Byte) : (s.setA v).cycles = s.cycles := rfl
@[simp] theorem setA_cond (s : State) (v : Byte) : (s.setA v).cond = s.cond := rfl

/-! ### setX -/

@[simp] theorem setX_a (s : State) (v : Byte) : (s.setX v).a = s.a := rfl
@[simp] theorem setX_x (s : State) (v : Byte) : (s.setX v).x = v := rfl
@[simp] theorem setX_y (s : State) (v : Byte) : (s.setX v).y = s.y := rfl
@[simp] theorem setX_sp (s : State) (v : Byte) : (s.setX v).sp = s.sp := rfl
@[simp] theorem setX_pc (s : State) (v : Byte) : (s.setX v).pc = s.pc := rfl
@[simp] theorem setX_flags (s : State) (v : Byte) : (s.setX v).flags = s.flags := rfl
@[simp] theorem setX_run (s : State) (v : Byte) : (s.setX v).run = s.run := rfl
@[simp] theorem setX_mem (s : State) (v : Byte) : (s.setX v).mem = s.mem := rfl
@[simp] theorem setX_devices (s : State) (v : Byte) : (s.setX v).devices = s.devices := rfl
@[simp] theorem setX_busCount (s : State) (v : Byte) : (s.setX v).busCount = s.busCount := rfl
@[simp] theorem setX_accesses (s : State) (v : Byte) : (s.setX v).accesses = s.accesses := rfl
@[simp] theorem setX_cycles (s : State) (v : Byte) : (s.setX v).cycles = s.cycles := rfl
@[simp] theorem setX_cond (s : State) (v : Byte) : (s.setX v).cond = s.cond := rfl

/-! ### setY -/

@[simp] theorem setY_a (s : State) (v : Byte) : (s.setY v).a = s.a := rfl
@[simp] theorem setY_x (s : State) (v : Byte) : (s.setY v).x = s.x := rfl
@[simp] theorem setY_y (s : State) (v : Byte) : (s.setY v).y = v := rfl
@[simp] theorem setY_sp (s : State) (v : Byte) : (s.setY v).sp = s.sp := rfl
@[simp] theorem setY_pc (s : State) (v : Byte) : (s.setY v).pc = s.pc := rfl
@[simp] theorem setY_flags (s : State) (v : Byte) : (s.setY v).flags = s.flags := rfl
@[simp] theorem setY_run (s : State) (v : Byte) : (s.setY v).run = s.run := rfl
@[simp] theorem setY_mem (s : State) (v : Byte) : (s.setY v).mem = s.mem := rfl
@[simp] theorem setY_devices (s : State) (v : Byte) : (s.setY v).devices = s.devices := rfl
@[simp] theorem setY_busCount (s : State) (v : Byte) : (s.setY v).busCount = s.busCount := rfl
@[simp] theorem setY_accesses (s : State) (v : Byte) : (s.setY v).accesses = s.accesses := rfl
@[simp] theorem setY_cycles (s : State) (v : Byte) : (s.setY v).cycles = s.cycles := rfl
@[simp] theorem setY_cond (s : State) (v : Byte) : (s.setY v).cond = s.cond := rfl

/-! ### setSp -/

@[simp] theorem setSp_a (s : State) (v : Byte) : (s.setSp v).a = s.a := rfl
@[simp] theorem setSp_x (s : State) (v : Byte) : (s.setSp v).x = s.x := rfl
@[simp] theorem setSp_y (s : State) (v : Byte) : (s.setSp v).y = s.y := rfl
@[simp] theorem setSp_sp (s : State) (v : Byte) : (s.setSp v).sp = v := rfl
@[simp] theorem setSp_pc (s : State) (v : Byte) : (s.setSp v).pc = s.pc := rfl
@[simp] theorem setSp_flags (s : State) (v : Byte) : (s.setSp v).flags = s.flags := rfl
@[simp] theorem setSp_run (s : State) (v : Byte) : (s.setSp v).run = s.run := rfl
@[simp] theorem setSp_mem (s : State) (v : Byte) : (s.setSp v).mem = s.mem := rfl
@[simp] theorem setSp_devices (s : State) (v : Byte) : (s.setSp v).devices = s.devices := rfl
@[simp] theorem setSp_busCount (s : State) (v : Byte) : (s.setSp v).busCount = s.busCount := rfl
@[simp] theorem setSp_accesses (s : State) (v : Byte) : (s.setSp v).accesses = s.accesses := rfl
@[simp] theorem setSp_cycles (s : State) (v : Byte) : (s.setSp v).cycles = s.cycles := rfl
@[simp] theorem setSp_cond (s : State) (v : Byte) : (s.setSp v).cond = s.cond := rfl

/-! ### setPcTo -/

@[simp] theorem setPcTo_a (s : State) (w : Addr) : (s.setPcTo w).a = s.a := rfl
@[simp] theorem setPcTo_x (s : State) (w : Addr) : (s.setPcTo w).x = s.x := rfl
@[simp] theorem setPcTo_y (s : State) (w : Addr) : (s.setPcTo w).y = s.y := rfl
@[simp] theorem setPcTo_sp (s : State) (w : Addr) : (s.setPcTo w).sp = s.sp := rfl
@[simp] theorem setPcTo_pc (s : State) (w : Addr) : (s.setPcTo w).pc = w := rfl
@[simp] theorem setPcTo_flags (s : State) (w : Addr) : (s.setPcTo w).flags = s.flags := rfl
@[simp] theorem setPcTo_run (s : State) (w : Addr) : (s.setPcTo w).run = s.run := rfl
@[simp] theorem setPcTo_mem (s : State) (w : Addr) : (s.setPcTo w).mem = s.mem := rfl
@[simp] theorem setPcTo_devices (s : State) (w : Addr) : (s.setPcTo w).devices = s.devices := rfl
@[simp] theorem setPcTo_busCount (s : State) (w : Addr) : (s.setPcTo w).busCount = s.busCount := rfl
@[simp] theorem setPcTo_accesses (s : State) (w : Addr) : (s.setPcTo w).accesses = s.accesses := rfl
@[simp] theorem setPcTo_cycles (s : State) (w : Addr) : (s.setPcTo w).cycles = s.cycles := rfl
@[simp] theorem setPcTo_cond (s : State) (w : Addr) : (s.setPcTo w).cond = s.cond := rfl

/-! ### setFlags -/

@[simp] theorem setFlags_a (s : State) (f : Flags) : (s.setFlags f).a = s.a := rfl
@[simp] theorem setFlags_x (s : State) (f : Flags) : (s.setFlags f).x = s.x := rfl
@[simp] theorem setFlags_y (s : State) (f : Flags) : (s.setFlags f).y = s.y := rfl
@[simp] theorem setFlags_sp (s : State) (f : Flags) : (s.setFlags f).sp = s.sp := rfl
@[simp] theorem setFlags_pc (s : State) (f : Flags) : (s.setFlags f).pc = s.pc := rfl
@[simp] theorem setFlags_flags (s : State) (f : Flags) : (s.setFlags f).flags = f := rfl
@[simp] theorem setFlags_run (s : State) (f : Flags) : (s.setFlags f).run = s.run := rfl
@[simp] theorem setFlags_mem (s : State) (f : Flags) : (s.setFlags f).mem = s.mem := rfl
@[simp] theorem setFlags_devices (s : State) (f : Flags) : (s.setFlags f).devices = s.devices := rfl
@[simp] theorem setFlags_busCount (s : State) (f : Flags) : (s.setFlags f).busCount = s.busCount := rfl
@[simp] theorem setFlags_accesses (s : State) (f : Flags) : (s.setFlags f).accesses = s.accesses := rfl
@[simp] theorem setFlags_cycles (s : State) (f : Flags) : (s.setFlags f).cycles = s.cycles := rfl
@[simp] theorem setFlags_cond (s : State) (f : Flags) : (s.setFlags f).cond = s.cond := rfl

/-! ### setZn -/

@[simp] theorem setZn_a (s : State) (v : Byte) : (s.setZn v).a = s.a := rfl
@[simp] theorem setZn_x (s : State) (v : Byte) : (s.setZn v).x = s.x := rfl
@[simp] theorem setZn_y (s : State) (v : Byte) : (s.setZn v).y = s.y := rfl
@[simp] theorem setZn_sp (s : State) (v : Byte) : (s.setZn v).sp = s.sp := rfl
@[simp] theorem setZn_pc (s : State) (v : Byte) : (s.setZn v).pc = s.pc := rfl
@[simp] theorem setZn_flags (s : State) (v : Byte) : (s.setZn v).flags = s.flags.setZn v := rfl
@[simp] theorem setZn_run (s : State) (v : Byte) : (s.setZn v).run = s.run := rfl
@[simp] theorem setZn_mem (s : State) (v : Byte) : (s.setZn v).mem = s.mem := rfl
@[simp] theorem setZn_devices (s : State) (v : Byte) : (s.setZn v).devices = s.devices := rfl
@[simp] theorem setZn_busCount (s : State) (v : Byte) : (s.setZn v).busCount = s.busCount := rfl
@[simp] theorem setZn_accesses (s : State) (v : Byte) : (s.setZn v).accesses = s.accesses := rfl
@[simp] theorem setZn_cycles (s : State) (v : Byte) : (s.setZn v).cycles = s.cycles := rfl
@[simp] theorem setZn_cond (s : State) (v : Byte) : (s.setZn v).cond = s.cond := rfl

/-! ### finish -/

@[simp] theorem finish_a (s : State) (c : Nat) : (s.finish c).a = s.a := rfl
@[simp] theorem finish_x (s : State) (c : Nat) : (s.finish c).x = s.x := rfl
@[simp] theorem finish_y (s : State) (c : Nat) : (s.finish c).y = s.y := rfl
@[simp] theorem finish_sp (s : State) (c : Nat) : (s.finish c).sp = s.sp := rfl
@[simp] theorem finish_pc (s : State) (c : Nat) : (s.finish c).pc = s.pc := rfl
@[simp] theorem finish_flags (s : State) (c : Nat) : (s.finish c).flags = s.flags := rfl
@[simp] theorem finish_run (s : State) (c : Nat) : (s.finish c).run = s.run := rfl
@[simp] theorem finish_mem (s : State) (c : Nat) : (s.finish c).mem = s.mem := rfl
@[simp] theorem finish_devices (s : State) (c : Nat) : (s.finish c).devices = s.devices := rfl
@[simp] theorem finish_busCount (s : State) (c : Nat) : (s.finish c).busCount = s.busCount := rfl
@[simp] theorem finish_accesses (s : State) (c : Nat) : (s.finish c).accesses = s.accesses := rfl
@[simp] theorem finish_cycles (s : State) (c : Nat) : (s.finish c).cycles = c := rfl
@[simp] theorem finish_cond (s : State) (c : Nat) : (s.finish c).cond = .none := rfl

/-! ### beginStep -/

@[simp] theorem beginStep_a (s : State) : (s.beginStep).a = s.a := rfl
@[simp] theorem beginStep_x (s : State) : (s.beginStep).x = s.x := rfl
@[simp] theorem beginStep_y (s : State) : (s.beginStep).y = s.y := rfl
@[simp] theorem beginStep_sp (s : State) : (s.beginStep).sp = s.sp := rfl
@[simp] theorem beginStep_pc (s : State) : (s.beginStep).pc = s.pc := rfl
@[simp] theorem beginStep_flags (s : State) : (s.beginStep).flags = s.flags := rfl
@[simp] theorem beginStep_run (s : State) : (s.beginStep).run = s.run := rfl
@[simp] theorem beginStep_mem (s : State) : (s.beginStep).mem = s.mem := rfl
@[simp] theorem beginStep_devices (s : State) : (s.beginStep).devices = s.devices := rfl
@[simp] theorem beginStep_busCount (s : State) : (s.beginStep).busCount = s.busCount := rfl
@[simp] theorem beginStep_accesses (s : State) : (s.beginStep).accesses = [] := rfl
@[simp] theorem beginStep_cycles (s : State) : (s.beginStep).cycles = 0 := rfl
@[simp] theorem beginStep_cond (s : State) : (s.beginStep).cond = .none := rfl

/-! ### busRead_st -/

@[simp] theorem busRead_st_a (s : State) (a : Addr) : ((busRead a s).st).a = s.a := rfl
@[simp] theorem busRead_st_x (s : State) (a : Addr) : ((busRead a s).st).x = s.x := rfl
@[simp] theorem busRead_st_y (s : State) (a : Addr) : ((busRead a s).st).y = s.y := rfl
@[simp] theorem busRead_st_sp (s : State) (a : Addr) : ((busRead a s).st).sp = s.sp := rfl
@[simp] theorem busRead_st_pc (s : State) (a : Addr) : ((busRead a s).st).pc = s.pc := rfl
@[simp] theorem busRead_st_flags (s : State) (a : Addr) : ((busRead a s).st).flags = s.flags := rfl
@[simp] theorem busRead_st_run (s : State) (a : Addr) : ((busRead a s).st).run = s.run := rfl
@[simp] theorem busRead_st_mem (s : State) (a : Addr) : ((busRead a s).st).mem = s.mem := rfl
@[simp] theorem busRead_st_devices (s : State) (a : Addr) : ((busRead a s).st).devices = s.devices := rfl
@[simp] theorem busRead_st_busCount (s : State) (a : Addr) : ((busRead a s).st).busCount = s.busCount + 1 := rfl
@[simp] theorem busRead_st_accesses (s : State) (a : Addr) : ((busRead a s).st).accesses = s.accesses ++ [.read a (s.busValue 0 a)] := rfl
@[simp] theorem busRead_st_cycles (s : State) (a : Addr) : ((busRead a s).st).cycles = s.cycles := rfl
@[simp] theorem busRead_st_cond (s : State) (a : Addr) : ((busRead a s).st).cond = s.cond := rfl

/-! ### busWrite -/

@[simp] theorem busWrite_a (s : State) (a : Addr) (v : Byte) : (busWrite a v s).a = s.a := rfl
@[simp] theorem busWrite_x (s : State) (a : Addr) (v : Byte) : (busWrite a v s).x = s.x := rfl
@[simp] theorem busWrite_y (s : State) (a : Addr) (v : Byte) : (busWrite a v s).y = s.y := rfl
@[simp] theorem busWrite_sp (s : State) (a : Addr) (v : Byte) : (busWrite a v s).sp = s.sp := rfl
@[simp] theorem busWrite_pc (s : State) (a : Addr) (v : Byte) : (busWrite a v s).pc = s.pc := rfl
@[simp] theorem busWrite_flags (s : State) (a : Addr) (v : Byte) : (busWrite a v s).flags = s.flags := rfl
@[simp] theorem busWrite_run (s : State) (a : Addr) (v : Byte) : (busWrite a v s).run = s.run := rfl
@[simp] theorem busWrite_mem (s : State) (a : Addr) (v : Byte) : (busWrite a v s).mem = (if s.isDevice a then s.mem else s.mem.write a.toNat v) := rfl
@[simp] theorem busWrite_devices (s : State) (a : Addr) (v : Byte) : (busWrite a v s).devices = s.devices := rfl
@[simp] theorem busWrite_busCount (s : State) (a : Addr) (v : Byte) : (busWrite a v s).busCount = s.busCount + 1 := rfl
@[simp] theorem busWrite_accesses (s : State) (a : Addr) (v : Byte) : (busWrite a v s).accesses = s.accesses ++ [.write a v] := rfl
@[simp] theorem busWrite_cycles (s : State) (a : Addr) (v : Byte) : (busWrite a v s).cycles = s.cycles := rfl
@[simp] theorem busWrite_cond (s : State) (a : Addr) (v : Byte) : (busWrite a v s).cond = s.cond := rfl

/-! ### fetch8_st -/

@[simp] theorem fetch8_st_a (s : State) : ((fetch8 s).st).a = s.a := rfl
@[simp] theorem fetch8_st_x (s : State) : ((fetch8 s).st).x = s.x := rfl
@[simp] theorem fetch8_st_y (s : State) : ((fetch8 s).st).y = s.y := rfl
@[simp] theorem fetch8_st_sp (s : State) : ((fetch8 s).st).sp = s.sp := rfl
@[simp] theorem fetch8_st_pc (s : State) : ((fetch8 s).st).pc = s.pc + 1 := rfl
@[simp] theorem fetch8_st_flags (s : State) : ((fetch8 s).st).flags = s.flags := rfl
@[simp] theorem fetch8_st_run (s : State) : ((fetch8 s).st).run = s.run := rfl
@[simp] theorem fetch8_st_mem (s : State) : ((fetch8 s).st).mem = s.mem := rfl
@[simp] theorem fetch8_st_devices (s : State) : ((fetch8 s).st).devices = s.devices := rfl
@[simp] theorem fetch8_st_busCount (s : State) : ((fetch8 s).st).busCount = s.busCount + 1 := rfl
@[simp] theorem fetch8_st_accesses (s : State) : ((fetch8 s).st).accesses = s.accesses ++ [.read s.pc (s.busValue 0 s.pc)] := rfl
@[simp] theorem fetch8_st_cycles (s : State) : ((fetch8 s).st).cycles = s.cycles := rfl
@[simp] theorem fetch8_st_cond (s : State) : ((fetch8 s).st).cond = s.cond := rfl

/-! ### fetchOpcode -/

@[simp] theorem fetchOpcode_a (s : State) : (fetchOpcode s).a = s.a := rfl
@[simp] theorem fetchOpcode_x (s : State) : (fetchOpcode s).x = s.x := rfl
@[simp] theorem fetchOpcode_y (s : State) : (fetchOpcode s).y = s.y := rfl
@[simp] theorem fetchOpcode_sp (s : State) : (fetchOpcode s).sp = s.sp := rfl
@[simp] theorem fetchOpcode_pc (s : State) : (fetchOpcode s).pc = s.pc + 1 := rfl
@[simp] theorem fetchOpcode_flags (s : State) : (fetchOpcode s).flags = s.flags := rfl
@[simp] theorem fetchOpcode_run (s : State) : (fetchOpcode s).run = s.run := rfl
@[simp] theorem fetchOpcode_mem (s : State) : (fetchOpcode s).mem = s.mem := rfl
@[simp] theorem fetchOpcode_devices (s : State) : (fetchOpcode s).devices = s.devices := rfl
@[simp] theorem fetchOpcode_busCount (s : State) : (fetchOpcode s).busCount = s.busCount + 1 := rfl
@[simp] theorem fetchOpcode_accesses (s : State) : (fetchOpcode s).accesses = [.read s.pc (s.busValue 0 s.pc)] := rfl
@[simp] theorem fetchOpcode_cycles (s : State) : (fetchOpcode s).cycles = 0 := rfl
@[simp] theorem fetchOpcode_cond (s : State) : (fetchOpcode s).cond = .none := rfl

/-! ### push8 -/

@[simp] theorem push8_a (s : State) (v : Byte) : (push8 v s).a = s.a := rfl
@[simp] theorem push8_x (s : State) (v : Byte) : (push8 v s).x = s.x := rfl
@[simp] theorem push8_y (s : State) (v : Byte) : (push8 v s).y = s.y := rfl
@[simp] theorem push8_sp (s : State) (v : Byte) : (push8 v s).sp = s.sp - 1 := rfl
@[simp] theorem push8_pc (s : State) (v : Byte) : (push8 v s).pc = s.pc := rfl
@[simp] theorem push8_flags (s : State) (v : Byte) : (push8 v s).flags = s.flags := rfl
@[simp] theorem push8_run (s : State) (v : Byte) : (push8 v s).run = s.run := rfl
@[simp] theorem push8_mem (s : State) (v : Byte) : (push8 v s).mem = (if s.isDevice (stackAddr s.sp) then s.mem else s.mem.write (stackAddr s.sp).toNat v) := rfl
@[simp] theorem push8_devices (s : State) (v : Byte) : (push8 v s).devices = s.devices := rfl
@[simp] theorem push8_busCount (s : State) (v : Byte) : (push8 v s).busCount = s.busCount + 1 := rfl
@[simp] theorem push8_accesses (s : State) (v : Byte) : (push8 v s).accesses = s.accesses ++ [.write (stackAddr s.sp) v] := rfl
@[simp] theorem push8_cycles (s : State) (v : Byte) : (push8 v s).cycles = s.cycles := rfl
@[simp] theorem push8_cond (s : State) (v : Byte) : (push8 v s).cond = s.cond := rfl

/-! ### pull8_st -/

@[simp] theorem pull8_st_a (s : State) : ((pull8 s).st).a = s.a := rfl
@[simp] theorem pull8_st_x (s : State) : ((pull8 s).st).x = s.x := rfl
@[simp] theorem pull8_st_y (s : State) : ((pull8 s).st).y = s.y := rfl
@[simp] theorem pull8_st_sp (s : State) : ((pull8 s).st).sp = s.sp + 1 := rfl
@[simp] theorem pull8_st_pc (s : State) : ((pull8 s).st).pc = s.pc := rfl
@[simp] theorem pull8_st_flags (s : State) : ((pull8 s).st).flags = s.flags := rfl
@[simp] theorem pull8_st_run (s : State) : ((pull8 s).st).run = s.run := rfl
@[simp] theorem pull8_st_mem (s : State) : ((pull8 s).st).mem = s.mem := rfl
@[simp] theorem pull8_st_devices (s : State) : ((pull8 s).st).devices = s.devices := rfl
@[simp] theorem pull8_st_busCount (s : State) : ((pull8 s).st).busCount = s.busCount + 1 := rfl
@[simp] theorem pull8_st_accesses (s : State) : ((pull8 s).st).accesses = s.accesses ++ [.read (stackAddr (s.sp + 1)) (s.busValue 0 (stackAddr (s.sp + 1)))] := rfl
@[simp] theorem pull8_st_cycles (s : State) : ((pull8 s).st).cycles = s.cycles := rfl
@[simp] theorem pull8_st_cond (s : State) : ((pull8 s).st).cond = s.cond := rfl

/-! ### setPc -/

@[simp] theorem setPc_a (s : State) (w : Addr) : (s.setPc w).a = s.a := rfl
@[simp] theorem setPc_x (s : State) (w : Addr) : (s.setPc w).x = s.x := rfl
@[simp] theorem setPc_y (s : State) (w : Addr) : (s.setPc w).y = s.y := rfl
@[simp] theorem setPc_sp (s : State) (w : Addr) : (s.setPc w).sp = s.sp := rfl
@[simp] theorem setPc_pc (s : State) (w : Addr) : (s.setPc w).pc = w := rfl
@[simp] theorem setPc_flags (s : State) (w : Addr) : (s.setPc w).flags = s.flags := rfl
@[simp] theorem setPc_run (s : State) (w : Addr) : (s.setPc w).run = s.run := rfl
@[simp] theorem setPc_mem (s : State) (w : Addr) : (s.setPc w).mem = s.mem := rfl
@[simp] theorem setPc_devices (s : State) (w : Addr) : (s.setPc w).devices = s.devices := rfl
@[simp] theorem setPc_busCount (s : State) (w : Addr) : (s.setPc w).busCount = s.busCount := rfl
@[simp] theorem setPc_accesses (s : State) (w : Addr) : (s.setPc w).accesses = s.accesses := rfl
@[simp] theorem setPc_cycles (s : State) (w : Addr) : (s.setPc w).cycles = s.cycles := rfl
@[simp] theorem setPc_cond (s : State) (w : Addr) : (s.setPc w).cond = s.cond := rfl

/-! ### Flag updates -/

@[simp] theorem flags_setZn_n (f : Flags) (v : Byte) : (f.setZn v).n = v.getLsbD 7 := rfl
@[simp] theorem flags_setZn_v (f : Flags) (v : Byte) : (f.setZn v).v = f.v := rfl
@[simp] theorem flags_setZn_d (f : Flags) (v : Byte) : (f.setZn v).d = f.d := rfl
@[simp] theorem flags_setZn_i (f : Flags) (v : Byte) : (f.setZn v).i = f.i := rfl
@[simp] theorem flags_setZn_z (f : Flags) (v : Byte) : (f.setZn v).z = (v == 0x00) := rfl
@[simp] theorem flags_setZn_c (f : Flags) (v : Byte) : (f.setZn v).c = f.c := rfl

@[simp] theorem flags_setAlu_n (f : Flags) (u : AluResult) : (f.setAlu u).n = u.n := rfl
@[simp] theorem flags_setAlu_v (f : Flags) (u : AluResult) : (f.setAlu u).v = u.v := rfl
@[simp] theorem flags_setAlu_d (f : Flags) (u : AluResult) : (f.setAlu u).d = f.d := rfl
@[simp] theorem flags_setAlu_i (f : Flags) (u : AluResult) : (f.setAlu u).i = f.i := rfl
@[simp] theorem flags_setAlu_z (f : Flags) (u : AluResult) : (f.setAlu u).z = u.z := rfl
@[simp] theorem flags_setAlu_c (f : Flags) (u : AluResult) : (f.setAlu u).c = u.c := rfl

@[simp] theorem cmpCore_n (r m : Byte) (f : Flags) : (cmpCore r m f).n = (r - m).getLsbD 7 := rfl
@[simp] theorem cmpCore_v (r m : Byte) (f : Flags) : (cmpCore r m f).v = f.v := rfl
@[simp] theorem cmpCore_d (r m : Byte) (f : Flags) : (cmpCore r m f).d = f.d := rfl
@[simp] theorem cmpCore_i (r m : Byte) (f : Flags) : (cmpCore r m f).i = f.i := rfl
@[simp] theorem cmpCore_z (r m : Byte) (f : Flags) : (cmpCore r m f).z = (r - m == 0x00) := rfl
@[simp] theorem cmpCore_c (r m : Byte) (f : Flags) : (cmpCore r m f).c = decide (m.toNat ≤ r.toNat) := rfl

end Sys2Proof.Machine
end

