-- ==== Sys2Proof/Laws/Bus.lean ====
section
/-! SUPPORT. The port and the stack engine: what a read returns after other accesses, and each operation's whole effect in one equation. -/

namespace Sys2Proof.Machine

/-- A read's byte depends on the device regions, the plain memory and the number of the access only. -/
theorem State.busValue_congr {s t : State} {j k : Nat} {a : Addr} (hd : t.devices = s.devices) (hm : t.mem = s.mem)
    (hc : t.busCount = s.busCount + j) : t.busValue k a = s.busValue (j + k) a := by
  simp [State.busValue, State.isDevice, hd, hm, hc, Nat.add_assoc]

theorem State.isDevice_congr {s t : State} {a : Addr} (hd : t.devices = s.devices) : t.isDevice a = s.isDevice a := by
  simp [State.isDevice, hd]

@[simp] theorem State.isDevice_busWrite (s : State) (a b : Addr) (v : Byte) : (busWrite a v s).isDevice b = s.isDevice b := rfl

/-- A write at another address does not change what a read returns. -/
theorem State.busValue_busWrite_ne {s : State} {a b : Addr} {v : Byte} {k : Nat} (h : b ≠ a) :
    (busWrite a v s).busValue k b = s.busValue (1 + k) b := by
  have hn : b.toNat ≠ a.toNat := fun e => h (BitVec.eq_of_toNat_eq e)
  simp only [State.busValue, State.isDevice_busWrite, busWrite_mem, busWrite_busCount, Nat.add_assoc]
  split
  · rfl
  · split
    · rfl
    · exact Memory.read_write_ne v hn

/-- A plain address of canonical memory reads as it was written. -/
theorem State.busValue_busWrite_same {s : State} {a : Addr} {v : Byte} {k : Nat} (hw : s.mem.wf = true)
    (hd : s.isDevice a = false) : (busWrite a v s).busValue k a = v := by
  have hd' : (busWrite a v s).isDevice a = false := hd
  simp only [State.busValue, hd', busWrite_mem, hd]
  exact Memory.read_write_self a v hw

@[simp] theorem State.busValue_setSp (s : State) (v : Byte) (k : Nat) (a : Addr) : (s.setSp v).busValue k a = s.busValue k a := rfl
@[simp] theorem State.busValue_setFlags (s : State) (f : Flags) (k : Nat) (a : Addr) :
    (s.setFlags f).busValue k a = s.busValue k a := rfl
@[simp] theorem State.isDevice_setSp (s : State) (v : Byte) (a : Addr) : (s.setSp v).isDevice a = s.isDevice a := rfl
@[simp] theorem State.isDevice_fetchOpcode (s : State) (b : Addr) : (fetchOpcode s).isDevice b = s.isDevice b := rfl

@[simp] theorem State.busValue_busRead (s : State) (a b : Addr) (k : Nat) :
    (busRead a s).st.busValue k b = s.busValue (1 + k) b :=
  State.busValue_congr rfl rfl rfl

@[simp] theorem State.busValue_fetch8 (s : State) (b : Addr) (k : Nat) : (fetch8 s).st.busValue k b = s.busValue (1 + k) b :=
  State.busValue_congr rfl rfl rfl

@[simp] theorem State.busValue_fetchOpcode (s : State) (b : Addr) (k : Nat) : (fetchOpcode s).busValue k b = s.busValue (1 + k) b :=
  State.busValue_congr rfl rfl rfl

@[simp] theorem busRead_val (s : State) (a : Addr) : (busRead a s).val = s.busValue 0 a := rfl
@[simp] theorem fetch8_val (s : State) : (fetch8 s).val = s.busValue 0 s.pc := rfl
@[simp] theorem pull8_val (s : State) : (pull8 s).val = s.busValue 0 (stackAddr (s.sp + 1)) := rfl

/-- The opcode fetch: PC moves on by one, one access, and what the last step returned is gone (R81). -/
theorem fetchOpcode_eq (s : State) :
    fetchOpcode s =
      { s with pc := s.pc + 1, accesses := [.read s.pc (s.busValue 0 s.pc)], busCount := s.busCount + 1, cycles := 0, cond := .none } :=
  rfl

/-- The opcode and one operand byte (R60, R81). -/
theorem fetchOperand_one_fetchOpcode (s : State) :
    fetchOperand 1 (fetchOpcode s) =
      { s with pc := s.pc + 2,
               accesses := [.read s.pc (s.busValue 0 s.pc), .read (s.pc + 1) (s.busValue 1 (s.pc + 1))],
               busCount := s.busCount + 2, cycles := 0, cond := .none } := by
  simp only [fetchOperand, fetch8, busRead, fetchOpcode_pc, State.busValue_fetchOpcode]
  simp [fetchOpcode_eq]
  exact BitVec.add_assoc _ _ _

/-- The opcode and two operand bytes (R60, R81). -/
theorem fetchOperand_two_fetchOpcode (s : State) :
    fetchOperand 2 (fetchOpcode s) =
      { s with pc := s.pc + 3,
               accesses := [.read s.pc (s.busValue 0 s.pc), .read (s.pc + 1) (s.busValue 1 (s.pc + 1)),
                            .read (s.pc + 2) (s.busValue 2 (s.pc + 2))],
               busCount := s.busCount + 3, cycles := 0, cond := .none } := by
  have h : s.pc + 1 + 1 = s.pc + 2 := BitVec.add_assoc _ _ _
  simp only [fetchOperand, fetch8, busRead, fetchOpcode_pc, State.busValue_fetchOpcode, h]
  simp [fetchOpcode_eq, State.busValue, State.isDevice, Nat.add_assoc]
  exact BitVec.add_assoc _ _ _

/-- Two reads, low byte first (R43). -/
theorem readWord_eq (a b : Addr) (s : State) :
    readWord a b s =
      ⟨word (s.busValue 1 b) (s.busValue 0 a),
       { s with busCount := s.busCount + 2, accesses := s.accesses ++ [.read a (s.busValue 0 a), .read b (s.busValue 1 b)] }⟩ := by
  simp only [readWord, busRead_val, State.busValue_busRead]
  simp [busRead, State.busValue, State.isDevice, Nat.add_assoc]

/-- `Push8` (R47). -/
theorem push8_eq (v : Byte) (s : State) :
    push8 v s =
      { s with sp := s.sp - 1,
               mem := if s.isDevice (stackAddr s.sp) then s.mem else s.mem.write (stackAddr s.sp).toNat v,
               busCount := s.busCount + 1, accesses := s.accesses ++ [.write (stackAddr s.sp) v] } :=
  rfl

/-- `Pull8` (R48). -/
theorem pull8_eq (s : State) :
    pull8 s =
      ⟨s.busValue 0 (stackAddr (s.sp + 1)),
       { s with sp := s.sp + 1, busCount := s.busCount + 1,
                accesses := s.accesses ++ [.read (stackAddr (s.sp + 1)) (s.busValue 0 (stackAddr (s.sp + 1)))] }⟩ :=
  rfl

/-- `Push16` (R49): the high byte at `0x0100|S`, the low byte one slot lower. -/
theorem push16_eq (w : Addr) (s : State) :
    push16 w s =
      { s with sp := s.sp - 2,
               mem := if s.isDevice (stackAddr (s.sp - 1)) then
                        (if s.isDevice (stackAddr s.sp) then s.mem else s.mem.write (stackAddr s.sp).toNat (hi w))
                      else (if s.isDevice (stackAddr s.sp) then s.mem else s.mem.write (stackAddr s.sp).toNat (hi w)).write
                        (stackAddr (s.sp - 1)).toNat (lo w),
               busCount := s.busCount + 2,
               accesses := s.accesses ++ [.write (stackAddr s.sp) (hi w), .write (stackAddr (s.sp - 1)) (lo w)] } := by
  have h : s.sp - 1 - 1 = s.sp - 2 := by ring_nf
  simp only [push16, push8_eq, State.isDevice, h, Nat.add_assoc, List.append_assoc, List.cons_append, List.nil_append]
  rfl

/-- `Pull16` (R50): two reads, the low byte first. -/
theorem pull16_eq (s : State) :
    pull16 s =
      ⟨word (s.busValue 1 (stackAddr (s.sp + 2))) (s.busValue 0 (stackAddr (s.sp + 1))),
       { s with sp := s.sp + 2, busCount := s.busCount + 2,
                accesses := s.accesses ++
                  [.read (stackAddr (s.sp + 1)) (s.busValue 0 (stackAddr (s.sp + 1))),
                   .read (stackAddr (s.sp + 2)) (s.busValue 1 (stackAddr (s.sp + 2)))] }⟩ := by
  have h : s.sp + 1 + 1 = s.sp + 2 := BitVec.add_assoc _ _ _
  simp only [pull16, pull8_eq, h]
  simp [State.busValue, State.isDevice, Nat.add_assoc]

/-- The stack slot lies in page 1 (R46). -/
theorem stackAddr_toNat (sp : Byte) : (stackAddr sp).toNat = 256 + sp.toNat := by
  have h := Nat.two_pow_add_eq_or_of_lt (i := 8) sp.isLt 1
  have h' : sp.toNat % 65536 = sp.toNat := Nat.mod_eq_of_lt (Nat.lt_trans sp.isLt (by decide))
  simp only [stackAddr, BitVec.toNat_or, BitVec.toNat_setWidth]
  rw [h']
  exact h.symm

theorem stackAddr_inj {p q : Byte} : stackAddr p = stackAddr q ↔ p = q := by
  constructor
  · intro h
    have := congrArg BitVec.toNat h
    simp only [stackAddr_toNat] at this
    exact BitVec.eq_of_toNat_eq (by omega)
  · rintro rfl
    rfl

/-- An address above page 1 is no stack slot. -/
theorem ne_stackAddr {b : Addr} (h : 512 ≤ b.toNat) (p : Byte) : b ≠ stackAddr p := by
  intro e
  have h1 := stackAddr_toNat p
  have h2 := p.isLt
  rw [e] at h
  omega

/-- A push does not change what a read above page 1 returns. -/
theorem State.busValue_push8 {b : Addr} (h : 512 ≤ b.toNat) (v : Byte) (s : State) (k : Nat) :
    (push8 v s).busValue k b = s.busValue (1 + k) b := by
  rw [push8, State.busValue_setSp]
  exact State.busValue_busWrite_ne (ne_stackAddr h s.sp)

theorem State.busValue_push16 {b : Addr} (h : 512 ≤ b.toNat) (w : Addr) (s : State) (k : Nat) :
    (push16 w s).busValue k b = s.busValue (2 + k) b := by
  rw [push16, State.busValue_push8 h, State.busValue_push8 h, ← Nat.add_assoc]

end Sys2Proof.Machine
end

