-- ==== Sys2Proof/Laws/Operands.lean ====
section
/-! SUPPORT. The address resolver and the bus protocols right after the opcode fetch, in closed form from the state at pc0; the
exception entry, the return, the conditions; and that memory stays canonical through every one of them. -/

namespace Sys2Proof.Machine

/-! ### The state after the instruction bytes -/

/-- After the opcode and one operand byte the rest of the state reads the port as `s` does, two accesses on. -/
@[simp] theorem busValue_fetchOperand_one (s : State) (k : Nat) (a : Addr) :
    (fetchOperand 1 (fetchOpcode s)).busValue k a = s.busValue (2 + k) a := by
  rw [fetchOperand_one_fetchOpcode]
  exact State.busValue_congr rfl rfl rfl

/-- After the opcode and two operand bytes: three accesses on. -/
@[simp] theorem busValue_fetchOperand_two (s : State) (k : Nat) (a : Addr) :
    (fetchOperand 2 (fetchOpcode s)).busValue k a = s.busValue (3 + k) a := by
  rw [fetchOperand_two_fetchOpcode]
  exact State.busValue_congr rfl rfl rfl

/-! ### Resolve, one lemma per mode (R101 to R106, R110, R111) -/

theorem resolve_zp (z : Byte) (s : State) :
    resolve (.zp z) (fetchOpcode s) = ⟨zeroPage z, false, fetchOperand 1 (fetchOpcode s)⟩ := rfl

theorem resolve_zpx (z : Byte) (s : State) :
    resolve (.zpx z) (fetchOpcode s) = ⟨zeroPage (z + s.x), false, fetchOperand 1 (fetchOpcode s)⟩ := rfl

theorem resolve_zpy (z : Byte) (s : State) :
    resolve (.zpy z) (fetchOpcode s) = ⟨zeroPage (z + s.y), false, fetchOperand 1 (fetchOpcode s)⟩ := rfl

theorem resolve_abs (w : Addr) (s : State) :
    resolve (.abs w) (fetchOpcode s) = ⟨w, false, fetchOperand 2 (fetchOpcode s)⟩ := rfl

theorem resolve_abx (w : Addr) (s : State) :
    resolve (.abx w) (fetchOpcode s) =
      ⟨w + s.x.setWidth 16, otherPage w (w + s.x.setWidth 16), fetchOperand 2 (fetchOpcode s)⟩ := rfl

theorem resolve_aby (w : Addr) (s : State) :
    resolve (.aby w) (fetchOpcode s) =
      ⟨w + s.y.setWidth 16, otherPage w (w + s.y.setWidth 16), fetchOperand 2 (fetchOpcode s)⟩ := rfl

/-- What the two pointer reads of an indirect mode leave, with the pointer's first byte at `p` in page 0. -/
theorem readWord_pointer (p : Byte) (s : State) :
    readWord (zeroPage p) (zeroPage (p + 1)) (fetchOperand 1 (fetchOpcode s)) =
      ⟨word (s.busValue 3 (zeroPage (p + 1))) (s.busValue 2 (zeroPage p)),
       { s with pc := s.pc + 2, busCount := s.busCount + 4, cycles := 0, cond := .none,
                accesses := [.read s.pc (s.busValue 0 s.pc), .read (s.pc + 1) (s.busValue 1 (s.pc + 1)),
                             .read (zeroPage p) (s.busValue 2 (zeroPage p)),
                             .read (zeroPage (p + 1)) (s.busValue 3 (zeroPage (p + 1)))] }⟩ := by
  rw [readWord_eq, busValue_fetchOperand_one, busValue_fetchOperand_one, fetchOperand_one_fetchOpcode]
  rfl

theorem resolve_izx (z : Byte) (s : State) :
    resolve (.izx z) (fetchOpcode s) =
      let p := z + s.x
      let g := readWord (zeroPage p) (zeroPage (p + 1)) (fetchOperand 1 (fetchOpcode s))
      ⟨g.val, false, g.st⟩ := rfl

theorem resolve_izy (z : Byte) (s : State) :
    resolve (.izy z) (fetchOpcode s) =
      let g := readWord (zeroPage z) (zeroPage (z + 1)) (fetchOperand 1 (fetchOpcode s))
      ⟨g.val + s.y.setWidth 16, otherPage g.val (g.val + s.y.setWidth 16), g.st⟩ := by
  simp only [resolve, readWord_pointer, Resolved.indexed, fetchOpcode_y]

/-- The two pointer reads of an indirect JMP (R109). -/
theorem resolveJmp_ind (w : Addr) (s : State) :
    resolveJmp (.ind w) (fetchOpcode s) = readWord w (jmpPointerHigh w) (fetchOperand 2 (fetchOpcode s)) := rfl

/-! ### The protocols: each ends in one next state (R85 to R89) -/

theorem load_imm (b : Byte) (s : State) : load (.imm b) s = ⟨b, false, fetchOperand 1 s⟩ := rfl

theorem load_mem (m : MemArg) (s : State) :
    load (.mem m) s = ⟨(resolve m s).st.busValue 0 (resolve m s).ea, (resolve m s).crossed, (busRead (resolve m s).ea (resolve m s).st).st⟩ :=
  rfl

/-- Resolving and loading make bus reads only: memory is as it was. -/
@[simp] theorem fetchOperand_mem (n : Nat) (s : State) : (fetchOperand n s).mem = s.mem := by
  induction n generalizing s with
  | zero => rfl
  | succ n ih => exact ih _

@[simp] theorem readWord_mem (a b : Addr) (s : State) : (readWord a b s).st.mem = s.mem := rfl

@[simp] theorem resolve_mem (m : MemArg) (s : State) : (resolve m s).st.mem = s.mem := by
  cases m <;> simp [resolve, Resolved.indexed]

@[simp] theorem load_st_mem (src : Src) (s : State) : (load src s).st.mem = s.mem := by
  cases src <;> simp [load]

/-! ### Exception entry and return (R203, R204) -/

/-- The exception entry in one equation, for a vector above page 1 (R203): three pushes, I set, PC the word at the vector. -/
theorem takeException_eq (ret : Addr) {vector : Addr} (s : State) (h : 512 ≤ vector.toNat) (h' : 512 ≤ (vector + 1).toNat) :
    takeException ret vector s =
      let p := push8 s.flags.pushed (push16 ret s)
      let l := s.busValue 3 vector
      let u := s.busValue 4 (vector + 1)
      { p with flags := { s.flags with i := true }, pc := word u l, busCount := p.busCount + 2,
               accesses := p.accesses ++ [.read vector l, .read (vector + 1) u] } := by
  have hf : (push16 ret s).flags = s.flags := rfl
  simp only [takeException, readWord_eq, State.busValue_setFlags, State.busValue_push8 h, State.busValue_push8 h',
    State.busValue_push16 h, State.busValue_push16 h', hf]
  rfl

/-- The memory the entry leaves: the three pushes, in order (R49, R203). -/
theorem takeException_mem (ret vector : Addr) (s : State) :
    (takeException ret vector s).mem = (push8 s.flags.pushed (push16 ret s)).mem := by
  simp [takeException, readWord_eq, push16]

/-- The return in one equation (R204): six flags and PC pulled, S three higher, every other register and memory as before. -/
theorem returnFromException_eq (s : State) :
    returnFromException s =
      let p := s.busValue 0 (stackAddr (s.sp + 1))
      let l := s.busValue 1 (stackAddr (s.sp + 2))
      let u := s.busValue 2 (stackAddr (s.sp + 3))
      { s with sp := s.sp + 3, flags := Flags.unpack p, pc := word u l, busCount := s.busCount + 3,
               accesses := s.accesses ++
                 [.read (stackAddr (s.sp + 1)) p, .read (stackAddr (s.sp + 2)) l, .read (stackAddr (s.sp + 3)) u] } := by
  have h2 : s.sp + 1 + 1 = s.sp + 2 := BitVec.add_assoc _ _ _
  have h3 : s.sp + 1 + 2 = s.sp + 3 := BitVec.add_assoc _ _ _
  have hb : ∀ k a, ((pull8 s).st.setFlags (Flags.unpack (pull8 s).val)).busValue k a = s.busValue (1 + k) a := fun k a => by
    rw [State.busValue_setFlags]
    exact State.busValue_congr rfl rfl rfl
  simp only [returnFromException, pull16_eq, hb, setFlags_sp, pull8_st_sp, h2, h3]
  simp [pull8_eq, State.setFlags, State.setPcTo, Nat.add_assoc]

/-! ### Every memory operation keeps the canonical form -/

theorem busWrite_wf {s : State} (a : Addr) (v : Byte) (h : s.mem.wf = true) : (busWrite a v s).mem.wf = true := by
  rw [busWrite_mem]
  split
  · exact h
  · exact Memory.write_wf a v h

theorem push8_wf {s : State} (v : Byte) (h : s.mem.wf = true) : (push8 v s).mem.wf = true :=
  busWrite_wf (stackAddr s.sp) v h

theorem push16_wf {s : State} (w : Addr) (h : s.mem.wf = true) : (push16 w s).mem.wf = true :=
  push8_wf (lo w) (push8_wf (hi w) h)

theorem takeException_wf {s : State} (ret vector : Addr) (h : s.mem.wf = true) : (takeException ret vector s).mem.wf = true := by
  rw [takeException_mem]
  exact push8_wf _ (push16_wf _ h)

theorem placeInstr_wf {s : State} (w : Nat) (h : s.mem.wf = true) : (s.placeInstr w).mem.wf = true :=
  Memory.write_wf (s.pc + 2) _ (Memory.write_wf (s.pc + 1) _ (Memory.write_wf s.pc _ h))

/-- A class read step keeps memory, if its body does. -/
theorem runRead_mem {i : Instr} {src : Src} {f : Byte → State → State} {s t : State} (hf : ∀ b u, (f b u).mem = u.mem)
    (h : runRead i src f s = .next t) : t.mem = s.mem := by
  cases h
  simp [hf]

/-- A class write step keeps memory canonical. -/
theorem runWrite_wf {i : Instr} {m : MemArg} {v : State → Byte} {s t : State} (hs : s.mem.wf = true)
    (h : runWrite i m v s = .next t) : t.mem.wf = true := by
  cases h
  exact busWrite_wf _ _ (by simpa using hs)

/-- A class rmw step keeps memory canonical, if its body keeps memory. -/
theorem runRmw_wf {i : Instr} {m : MemArg} {f : Byte → State → Got} {s t : State} (hf : ∀ b u, (f b u).st.mem = u.mem)
    (hs : s.mem.wf = true) (h : runRmw i m f s = .next t) : t.mem.wf = true := by
  cases h
  refine busWrite_wf _ _ ?_
  rw [hf]
  exact busWrite_wf _ _ (by simpa using hs)

/-- A class implied, stack or control step keeps memory canonical, if its body does. -/
theorem runImplied_wf {i : Instr} {f : State → State} {s t : State} (hf : ∀ u, u.mem.wf = true → (f u).mem.wf = true)
    (hs : s.mem.wf = true) (h : runImplied i f s = .next t) : t.mem.wf = true := by
  cases h
  exact hf _ (by simpa using hs)

/-- A branch in closed form, with `n = pc0 + 2` and the target `n` plus the displacement (R205): PC and what the step returns change,
and nothing else. -/
theorem runBranch_eq (i : Instr) (cond : Flags → Bool) (d : Byte) (s : State) :
    runBranch i cond d s =
      let n := s.pc + 2
      let target := n + d.signExtend 16
      .next { s with pc := if cond s.flags then target else n, busCount := s.busCount + 2, cond := .none,
                     cycles := cyclesOf i.entry false (cond s.flags) (otherPage n target),
                     accesses := [.read s.pc (s.busValue 0 s.pc), .read (s.pc + 1) (s.busValue 1 (s.pc + 1))] } := by
  simp only [runBranch, fetchOperand_one_fetchOpcode, State.finish, State.setPcTo]

/-! ### The conditions (R83) -/

theorem signalUnstable_eq (op : Byte) (s : State) :
    signalUnstable op s =
      { s with accesses := [.read s.pc (s.busValue 0 s.pc)], busCount := s.busCount + 1, cycles := 0, cond := .unstable op } := rfl

theorem signalHalted_eq (s : State) :
    signalHalted s =
      { s with accesses := [.read s.pc (s.busValue 0 s.pc)], busCount := s.busCount + 1, cycles := 0, cond := .halted,
               run := .halted } := rfl

/-! ### The step (R80) -/

theorem step_running {s : State} (h : s.run = .running) : step s = exec s.nextInstr s := by
  simp only [step, h]

end Sys2Proof.Machine
end

