-- ==== Sys2Proof/Laws/PerInstr.lean ====
section
/-! SUPPORT. Facts of every instruction, one lemma per constructor: a well-formed instruction has an opcode byte, the table entry of that
byte carries its mnemonic and its mode, and its operand has as many bytes as the mode says (R60, R61, R65). -/

namespace Sys2Proof.Laws.Encodable

/-- The encoder, written from the instruction rules, agrees with the dispatch table of R65 on this instruction. -/
def Statement (i : Instr) : Prop :=
  i.wellFormed = true →
    i.opcode? = some i.opcode ∧ (tableEntry i.opcode).mnemonic = i.mnemonic ∧ (tableEntry i.opcode).mode = i.mode ∧
    i.operand.length = i.mode.operandBytes

theorem of_opcode {i : Instr} {op : Byte} (ho : i.opcode? = some op) (hn : (tableEntry op).mnemonic = i.mnemonic)
    (hm : (tableEntry op).mode = i.mode) (hl : i.operand.length = i.mode.operandBytes) : Statement i := by
  intro _
  have h : i.opcode = op := by simp [Instr.opcode, ho]
  rw [h]
  exact ⟨ho, hn, hm, hl⟩

theorem of_ill_formed {i : Instr} (h : i.wellFormed = false) : Statement i := by
  intro hw
  rw [h] at hw
  cases hw

theorem lda (src : Src) : Statement (Instr.lda src) := by
  rcases src with b | m
  · first | exact of_ill_formed rfl | exact of_opcode rfl rfl rfl rfl
  · cases m <;> first | exact of_ill_formed rfl | exact of_opcode rfl rfl rfl rfl

theorem ldx (src : Src) : Statement (Instr.ldx src) := by
  rcases src with b | m
  · first | exact of_ill_formed rfl | exact of_opcode rfl rfl rfl rfl
  · cases m <;> first | exact of_ill_formed rfl | exact of_opcode rfl rfl rfl rfl

theorem ldy (src : Src) : Statement (Instr.ldy src) := by
  rcases src with b | m
  · first | exact of_ill_formed rfl | exact of_opcode rfl rfl rfl rfl
  · cases m <;> first | exact of_ill_formed rfl | exact of_opcode rfl rfl rfl rfl

theorem sta (m : MemArg) : Statement (Instr.sta m) := by
  cases m <;> first | exact of_ill_formed rfl | exact of_opcode rfl rfl rfl rfl

theorem stx (m : MemArg) : Statement (Instr.stx m) := by
  cases m <;> first | exact of_ill_formed rfl | exact of_opcode rfl rfl rfl rfl

theorem sty (m : MemArg) : Statement (Instr.sty m) := by
  cases m <;> first | exact of_ill_formed rfl | exact of_opcode rfl rfl rfl rfl

theorem tax : Statement Instr.tax := of_opcode rfl rfl rfl rfl

theorem tay : Statement Instr.tay := of_opcode rfl rfl rfl rfl

theorem txa : Statement Instr.txa := of_opcode rfl rfl rfl rfl

theorem tya : Statement Instr.tya := of_opcode rfl rfl rfl rfl

theorem tsx : Statement Instr.tsx := of_opcode rfl rfl rfl rfl

theorem txs : Statement Instr.txs := of_opcode rfl rfl rfl rfl

theorem adc (src : Src) : Statement (Instr.adc src) := by
  rcases src with b | m
  · first | exact of_ill_formed rfl | exact of_opcode rfl rfl rfl rfl
  · cases m <;> first | exact of_ill_formed rfl | exact of_opcode rfl rfl rfl rfl

theorem sbc (src : Src) : Statement (Instr.sbc src) := by
  rcases src with b | m
  · first | exact of_ill_formed rfl | exact of_opcode rfl rfl rfl rfl
  · cases m <;> first | exact of_ill_formed rfl | exact of_opcode rfl rfl rfl rfl

theorem and (src : Src) : Statement (Instr.and src) := by
  rcases src with b | m
  · first | exact of_ill_formed rfl | exact of_opcode rfl rfl rfl rfl
  · cases m <;> first | exact of_ill_formed rfl | exact of_opcode rfl rfl rfl rfl

theorem ora (src : Src) : Statement (Instr.ora src) := by
  rcases src with b | m
  · first | exact of_ill_formed rfl | exact of_opcode rfl rfl rfl rfl
  · cases m <;> first | exact of_ill_formed rfl | exact of_opcode rfl rfl rfl rfl

theorem eor (src : Src) : Statement (Instr.eor src) := by
  rcases src with b | m
  · first | exact of_ill_formed rfl | exact of_opcode rfl rfl rfl rfl
  · cases m <;> first | exact of_ill_formed rfl | exact of_opcode rfl rfl rfl rfl

theorem cmp (src : Src) : Statement (Instr.cmp src) := by
  rcases src with b | m
  · first | exact of_ill_formed rfl | exact of_opcode rfl rfl rfl rfl
  · cases m <;> first | exact of_ill_formed rfl | exact of_opcode rfl rfl rfl rfl

theorem cpx (src : Src) : Statement (Instr.cpx src) := by
  rcases src with b | m
  · first | exact of_ill_formed rfl | exact of_opcode rfl rfl rfl rfl
  · cases m <;> first | exact of_ill_formed rfl | exact of_opcode rfl rfl rfl rfl

theorem cpy (src : Src) : Statement (Instr.cpy src) := by
  rcases src with b | m
  · first | exact of_ill_formed rfl | exact of_opcode rfl rfl rfl rfl
  · cases m <;> first | exact of_ill_formed rfl | exact of_opcode rfl rfl rfl rfl

theorem bit (m : MemArg) : Statement (Instr.bit m) := by
  cases m <;> first | exact of_ill_formed rfl | exact of_opcode rfl rfl rfl rfl

theorem asl (dst : Dst) : Statement (Instr.asl dst) := by
  rcases dst with _ | m
  · exact of_opcode rfl rfl rfl rfl
  · cases m <;> first | exact of_ill_formed rfl | exact of_opcode rfl rfl rfl rfl

theorem lsr (dst : Dst) : Statement (Instr.lsr dst) := by
  rcases dst with _ | m
  · exact of_opcode rfl rfl rfl rfl
  · cases m <;> first | exact of_ill_formed rfl | exact of_opcode rfl rfl rfl rfl

theorem rol (dst : Dst) : Statement (Instr.rol dst) := by
  rcases dst with _ | m
  · exact of_opcode rfl rfl rfl rfl
  · cases m <;> first | exact of_ill_formed rfl | exact of_opcode rfl rfl rfl rfl

theorem ror (dst : Dst) : Statement (Instr.ror dst) := by
  rcases dst with _ | m
  · exact of_opcode rfl rfl rfl rfl
  · cases m <;> first | exact of_ill_formed rfl | exact of_opcode rfl rfl rfl rfl

theorem inc (m : MemArg) : Statement (Instr.inc m) := by
  cases m <;> first | exact of_ill_formed rfl | exact of_opcode rfl rfl rfl rfl

theorem dec (m : MemArg) : Statement (Instr.dec m) := by
  cases m <;> first | exact of_ill_formed rfl | exact of_opcode rfl rfl rfl rfl

theorem inx : Statement Instr.inx := of_opcode rfl rfl rfl rfl

theorem iny : Statement Instr.iny := of_opcode rfl rfl rfl rfl

theorem dex : Statement Instr.dex := of_opcode rfl rfl rfl rfl

theorem dey : Statement Instr.dey := of_opcode rfl rfl rfl rfl

theorem pha : Statement Instr.pha := of_opcode rfl rfl rfl rfl

theorem pla : Statement Instr.pla := of_opcode rfl rfl rfl rfl

theorem php : Statement Instr.php := of_opcode rfl rfl rfl rfl

theorem plp : Statement Instr.plp := of_opcode rfl rfl rfl rfl

theorem clc : Statement Instr.clc := of_opcode rfl rfl rfl rfl

theorem sec : Statement Instr.sec := of_opcode rfl rfl rfl rfl

theorem cli : Statement Instr.cli := of_opcode rfl rfl rfl rfl

theorem sei : Statement Instr.sei := of_opcode rfl rfl rfl rfl

theorem cld : Statement Instr.cld := of_opcode rfl rfl rfl rfl

theorem sed : Statement Instr.sed := of_opcode rfl rfl rfl rfl

theorem clv : Statement Instr.clv := of_opcode rfl rfl rfl rfl

theorem nop : Statement Instr.nop := of_opcode rfl rfl rfl rfl

theorem jmp (t : JmpArg) : Statement (Instr.jmp t) := by
  cases t <;> first | exact of_ill_formed rfl | exact of_opcode rfl rfl rfl rfl

theorem jsr (w : Addr) : Statement (Instr.jsr w) := of_opcode rfl rfl rfl rfl

theorem rts : Statement Instr.rts := of_opcode rfl rfl rfl rfl

theorem brk : Statement Instr.brk := of_opcode rfl rfl rfl rfl

theorem rti : Statement Instr.rti := of_opcode rfl rfl rfl rfl

theorem bpl (d : Byte) : Statement (Instr.bpl d) := of_opcode rfl rfl rfl rfl

theorem bmi (d : Byte) : Statement (Instr.bmi d) := of_opcode rfl rfl rfl rfl

theorem bvc (d : Byte) : Statement (Instr.bvc d) := of_opcode rfl rfl rfl rfl

theorem bvs (d : Byte) : Statement (Instr.bvs d) := of_opcode rfl rfl rfl rfl

theorem bcc (d : Byte) : Statement (Instr.bcc d) := of_opcode rfl rfl rfl rfl

theorem bcs (d : Byte) : Statement (Instr.bcs d) := of_opcode rfl rfl rfl rfl

theorem bne (d : Byte) : Statement (Instr.bne d) := of_opcode rfl rfl rfl rfl

theorem beq (d : Byte) : Statement (Instr.beq d) := of_opcode rfl rfl rfl rfl

theorem slo (m : MemArg) : Statement (Instr.slo m) := by
  cases m <;> first | exact of_ill_formed rfl | exact of_opcode rfl rfl rfl rfl

theorem rla (m : MemArg) : Statement (Instr.rla m) := by
  cases m <;> first | exact of_ill_formed rfl | exact of_opcode rfl rfl rfl rfl

theorem sre (m : MemArg) : Statement (Instr.sre m) := by
  cases m <;> first | exact of_ill_formed rfl | exact of_opcode rfl rfl rfl rfl

theorem rra (m : MemArg) : Statement (Instr.rra m) := by
  cases m <;> first | exact of_ill_formed rfl | exact of_opcode rfl rfl rfl rfl

theorem dcp (m : MemArg) : Statement (Instr.dcp m) := by
  cases m <;> first | exact of_ill_formed rfl | exact of_opcode rfl rfl rfl rfl

theorem isb (m : MemArg) : Statement (Instr.isb m) := by
  cases m <;> first | exact of_ill_formed rfl | exact of_opcode rfl rfl rfl rfl

theorem lax (m : MemArg) : Statement (Instr.lax m) := by
  cases m <;> first | exact of_ill_formed rfl | exact of_opcode rfl rfl rfl rfl

theorem sax (m : MemArg) : Statement (Instr.sax m) := by
  cases m <;> first | exact of_ill_formed rfl | exact of_opcode rfl rfl rfl rfl

theorem anc (code : Byte) (b : Byte) : Statement (Instr.anc code b) := by
  intro hw
  have ht : ∀ code ∈ Instr.ancCodes, (tableEntry code).mnemonic = .anc ∧ (tableEntry code).mode = .imm := by decide
  have hc : Instr.ancCodes.contains code = true := hw
  obtain ⟨h1, h2⟩ := ht code (by simpa using hc)
  exact of_opcode (if_pos hc) h1 h2 rfl hw

theorem asr (b : Byte) : Statement (Instr.asr b) := of_opcode rfl rfl rfl rfl

theorem arr (b : Byte) : Statement (Instr.arr b) := of_opcode rfl rfl rfl rfl

theorem sbx (b : Byte) : Statement (Instr.sbx b) := of_opcode rfl rfl rfl rfl

theorem las (w : Addr) : Statement (Instr.las w) := of_opcode rfl rfl rfl rfl

theorem ane (b : Byte) : Statement (Instr.ane b) := of_opcode rfl rfl rfl rfl

theorem lxa (b : Byte) : Statement (Instr.lxa b) := of_opcode rfl rfl rfl rfl

theorem sbcEb (b : Byte) : Statement (Instr.sbcEb b) := of_opcode rfl rfl rfl rfl

theorem nopImp (code : Byte) : Statement (Instr.nopImp code) := by
  intro hw
  have ht : ∀ code ∈ Instr.nopImpCodes, (tableEntry code).mnemonic = .nop ∧ (tableEntry code).mode = .imp := by decide
  have hc : Instr.nopImpCodes.contains code = true := hw
  obtain ⟨h1, h2⟩ := ht code (by simpa using hc)
  exact of_opcode (if_pos hc) h1 h2 rfl hw

theorem nopDop (code : Byte) (src : Src) : Statement (Instr.nopDop code src) := by
  intro hw
  have ht : ∀ p ∈ Instr.nopDopCodes, (tableEntry p.2).mnemonic = .nop ∧ (tableEntry p.2).mode = p.1 := by decide
  have hc : Instr.nopDopCodes.contains (src.mode, code) = true := hw
  obtain ⟨h1, h2⟩ := ht (src.mode, code) (by simpa using hc)
  have hl : (Instr.nopDop code src).operand.length = (Instr.nopDop code src).mode.operandBytes := by
    rcases src with b | m <;> [rfl; (cases m <;> rfl)]
  exact of_opcode (i := (Instr.nopDop code src)) (if_pos hc) h1 h2 hl hw

theorem nopTop (code : Byte) (m : MemArg) : Statement (Instr.nopTop code m) := by
  intro hw
  have ht : ∀ p ∈ Instr.nopTopCodes, (tableEntry p.2).mnemonic = .nop ∧ (tableEntry p.2).mode = p.1 := by decide
  have hc : Instr.nopTopCodes.contains (m.mode, code) = true := hw
  obtain ⟨h1, h2⟩ := ht (m.mode, code) (by simpa using hc)
  have hl : (Instr.nopTop code m).operand.length = (Instr.nopTop code m).mode.operandBytes := by
    cases m <;> rfl
  exact of_opcode (i := (Instr.nopTop code m)) (if_pos hc) h1 h2 hl hw

theorem sha (m : MemArg) : Statement (Instr.sha m) := by
  cases m <;> first | exact of_ill_formed rfl | exact of_opcode rfl rfl rfl rfl

theorem shs (w : Addr) : Statement (Instr.shs w) := of_opcode rfl rfl rfl rfl

theorem shx (w : Addr) : Statement (Instr.shx w) := of_opcode rfl rfl rfl rfl

theorem shy (w : Addr) : Statement (Instr.shy w) := of_opcode rfl rfl rfl rfl

theorem jam (code : Byte) : Statement (Instr.jam code) := by
  intro hw
  have ht : ∀ code ∈ Instr.jamCodes, (tableEntry code).mnemonic = .jam ∧ (tableEntry code).mode = .imp := by decide
  have hc : Instr.jamCodes.contains code = true := hw
  obtain ⟨h1, h2⟩ := ht code (by simpa using hc)
  exact of_opcode (if_pos hc) h1 h2 rfl hw

end Sys2Proof.Laws.Encodable
end

