-- ==== Sys2Proof/Laws/Table.lean ====
section
/-! SUPPORT. The dispatch table: it is total, and no entry asks for an operand its mode does not have (R63, R67, R70, R72). -/

namespace Sys2Proof.Laws

/-- The table has 16 rows of 16 entries, so the default of `tableEntry` is never taken. -/
theorem table_total : tableRows.length = 16 ∧ ∀ row ∈ tableRows, row.length = 16 := by decide

/-- An entry that works on a byte in memory has a mode that names one. -/
theorem table_modes_fit :
    ∀ row ∈ tableRows, ∀ e ∈ row, e.accessClass ∈ [AccessClass.read, .write, .rmw, .unstable] →
      e.mode ∈ [Mode.zp, .zpx, .zpy, .abs, .abx, .aby, .izx, .izy] := by decide

/-- Only entries of class read pay the page-cross cycle, and only with an indexed absolute or indirect mode (R71). -/
theorem table_page_cross :
    ∀ row ∈ tableRows, ∀ e ∈ row, e.pageCross = true →
      e.accessClass = .read ∧ e.mode ∈ [Mode.abx, .aby, .izy] := by decide

end Sys2Proof.Laws
end

