-- ==== Sys2Proof/Tests/Slice0.lean ====
section
/-! SUPPORT. Tests of the model on fixed values: the well-formedness checks, a word per constructor written out from the rules'
"Encodings" lines, single steps with the expected values of spec/95_test_vectors.md, and for every obligation that has hypotheses a
witness that meets them. -/

namespace Sys2Proof.Tests

open Sys2Proof.Machine Sys2Proof.Claim

/-! ### Well-formedness: an ill-formed term for each check -/

theorem test_wf_loads_stores :
    (Instr.lda (.mem (.zpy 0x10))).wellFormed = false ∧ (Instr.ldx (.mem (.zpx 0x10))).wellFormed = false ∧
    (Instr.ldy (.mem (.aby 0x1234))).wellFormed = false ∧ (Instr.sta (.zpy 0x10)).wellFormed = false ∧
    (Instr.stx (.zpx 0x10)).wellFormed = false ∧ (Instr.sty (.zpy 0x10)).wellFormed = false := by decide

theorem test_wf_arith :
    (Instr.adc (.mem (.zpy 0x10))).wellFormed = false ∧ (Instr.sbc (.mem (.zpy 0x10))).wellFormed = false ∧
    (Instr.and (.mem (.zpy 0x10))).wellFormed = false ∧ (Instr.ora (.mem (.zpy 0x10))).wellFormed = false ∧
    (Instr.eor (.mem (.zpy 0x10))).wellFormed = false ∧ (Instr.cmp (.mem (.zpy 0x10))).wellFormed = false ∧
    (Instr.cpx (.mem (.zpx 0x10))).wellFormed = false ∧ (Instr.cpy (.mem (.abx 0x1234))).wellFormed = false ∧
    (Instr.bit (.abx 0x1234)).wellFormed = false := by decide

theorem test_wf_shifts :
    (Instr.asl (.mem (.aby 0x1234))).wellFormed = false ∧ (Instr.lsr (.mem (.izx 0x10))).wellFormed = false ∧
    (Instr.rol (.mem (.zpy 0x10))).wellFormed = false ∧ (Instr.ror (.mem (.izy 0x10))).wellFormed = false ∧
    (Instr.inc (.aby 0x1234)).wellFormed = false ∧ (Instr.dec (.izx 0x10)).wellFormed = false := by decide

theorem test_wf_undocumented :
    (Instr.slo (.zpy 0x10)).wellFormed = false ∧ (Instr.rla (.zpy 0x10)).wellFormed = false ∧
    (Instr.sre (.zpy 0x10)).wellFormed = false ∧ (Instr.rra (.zpy 0x10)).wellFormed = false ∧
    (Instr.dcp (.zpy 0x10)).wellFormed = false ∧ (Instr.isb (.zpy 0x10)).wellFormed = false ∧
    (Instr.lax (.zpx 0x10)).wellFormed = false ∧ (Instr.sax (.abx 0x1234)).wellFormed = false ∧
    (Instr.anc 0x4B 0x10).wellFormed = false ∧ (Instr.nopImp 0xEA).wellFormed = false ∧
    (Instr.nopDop 0x04 (.imm 0x10)).wellFormed = false ∧ (Instr.nopTop 0x0C (.abx 0x1234)).wellFormed = false ∧
    (Instr.sha (.zp 0x10)).wellFormed = false ∧ (Instr.jam 0x82).wellFormed = false := by decide

/-- A byte string that ends before its operand does is refused, by name. -/
theorem test_decode_refuses :
    decodeBytes [] = .error .noOpcode ∧ decodeBytes [0xAD, 0x34] = .error (.missingOperand 0xAD) ∧
    decodeTableWord 7 0xEA = none ∧ decodeTableWord 24 0x1234AD = some (.lda (.mem (.abs 0x1234))) ∧
    decodeTableWord 8 0x1234AD = some (.lda (.mem (.abs 0x0000))) := by decide

/-! ### Decoding: words from the "Encodings" lines, operand bytes 0x34 and 0x12 -/

theorem test_decode_loads_stores_1 :
    decodeBytes [0xA1, 0x34] = .ok (.lda (.mem (.izx 0x34)), []) ∧
    decodeBytes [0xB6, 0x34] = .ok (.ldx (.mem (.zpy 0x34)), []) ∧
    decodeBytes [0xA4, 0x34] = .ok (.ldy (.mem (.zp 0x34)), []) ∧
    decodeBytes [0x8D, 0x34, 0x12] = .ok (.sta (.abs 0x1234), []) ∧
    decodeBytes [0x86, 0x34] = .ok (.stx (.zp 0x34), []) ∧
    decodeBytes [0x84, 0x34] = .ok (.sty (.zp 0x34), []) ∧
    decodeBytes [0xAA] = .ok (.tax, []) ∧
    decodeBytes [0xA8] = .ok (.tay, []) := by decide

theorem test_decode_loads_stores_2 :
    decodeBytes [0x8A] = .ok (.txa, []) ∧
    decodeBytes [0x98] = .ok (.tya, []) ∧
    decodeBytes [0xBA] = .ok (.tsx, []) ∧
    decodeBytes [0x9A] = .ok (.txs, []) := by decide

theorem test_decode_arith_1 :
    decodeBytes [0x71, 0x34] = .ok (.adc (.mem (.izy 0x34)), []) ∧
    decodeBytes [0xFD, 0x34, 0x12] = .ok (.sbc (.mem (.abx 0x1234)), []) ∧
    decodeBytes [0x29, 0x34] = .ok (.and (.imm 0x34), []) ∧
    decodeBytes [0x15, 0x34] = .ok (.ora (.mem (.zpx 0x34)), []) ∧
    decodeBytes [0x41, 0x34] = .ok (.eor (.mem (.izx 0x34)), []) ∧
    decodeBytes [0xCD, 0x34, 0x12] = .ok (.cmp (.mem (.abs 0x1234)), []) ∧
    decodeBytes [0xE0, 0x34] = .ok (.cpx (.imm 0x34), []) ∧
    decodeBytes [0xC0, 0x34] = .ok (.cpy (.imm 0x34), []) := by decide

theorem test_decode_arith_2 :
    decodeBytes [0x24, 0x34] = .ok (.bit (.zp 0x34), []) := by decide

theorem test_decode_shifts_1 :
    decodeBytes [0x16, 0x34] = .ok (.asl (.mem (.zpx 0x34)), []) ∧
    decodeBytes [0x4A] = .ok (.lsr .acc, []) ∧
    decodeBytes [0x3E, 0x34, 0x12] = .ok (.rol (.mem (.abx 0x1234)), []) ∧
    decodeBytes [0x6E, 0x34, 0x12] = .ok (.ror (.mem (.abs 0x1234)), []) ∧
    decodeBytes [0xFE, 0x34, 0x12] = .ok (.inc (.abx 0x1234), []) ∧
    decodeBytes [0xD6, 0x34] = .ok (.dec (.zpx 0x34), []) ∧
    decodeBytes [0xE8] = .ok (.inx, []) ∧
    decodeBytes [0xC8] = .ok (.iny, []) := by decide

theorem test_decode_shifts_2 :
    decodeBytes [0xCA] = .ok (.dex, []) ∧
    decodeBytes [0x88] = .ok (.dey, []) := by decide

theorem test_decode_stack_flags_1 :
    decodeBytes [0x48] = .ok (.pha, []) ∧
    decodeBytes [0x68] = .ok (.pla, []) ∧
    decodeBytes [0x08] = .ok (.php, []) ∧
    decodeBytes [0x28] = .ok (.plp, []) ∧
    decodeBytes [0x18] = .ok (.clc, []) ∧
    decodeBytes [0x38] = .ok (.sec, []) ∧
    decodeBytes [0x58] = .ok (.cli, []) ∧
    decodeBytes [0x78] = .ok (.sei, []) := by decide

theorem test_decode_stack_flags_2 :
    decodeBytes [0xD8] = .ok (.cld, []) ∧
    decodeBytes [0xF8] = .ok (.sed, []) ∧
    decodeBytes [0xB8] = .ok (.clv, []) ∧
    decodeBytes [0xEA] = .ok (.nop, []) := by decide

theorem test_decode_control_1 :
    decodeBytes [0x6C, 0x34, 0x12] = .ok (.jmp (.ind 0x1234), []) ∧
    decodeBytes [0x20, 0x34, 0x12] = .ok (.jsr 0x1234, []) ∧
    decodeBytes [0x60] = .ok (.rts, []) ∧
    decodeBytes [0x00] = .ok (.brk, []) ∧
    decodeBytes [0x40] = .ok (.rti, []) ∧
    decodeBytes [0x10, 0x34] = .ok (.bpl 0x34, []) ∧
    decodeBytes [0x30, 0x34] = .ok (.bmi 0x34, []) ∧
    decodeBytes [0x50, 0x34] = .ok (.bvc 0x34, []) := by decide

theorem test_decode_control_2 :
    decodeBytes [0x70, 0x34] = .ok (.bvs 0x34, []) ∧
    decodeBytes [0x90, 0x34] = .ok (.bcc 0x34, []) ∧
    decodeBytes [0xB0, 0x34] = .ok (.bcs 0x34, []) ∧
    decodeBytes [0xD0, 0x34] = .ok (.bne 0x34, []) ∧
    decodeBytes [0xF0, 0x34] = .ok (.beq 0x34, []) := by decide

theorem test_decode_fused :
    decodeBytes [0x03, 0x34] = .ok (.slo (.izx 0x34), []) ∧
    decodeBytes [0x33, 0x34] = .ok (.rla (.izy 0x34), []) ∧
    decodeBytes [0x5F, 0x34, 0x12] = .ok (.sre (.abx 0x1234), []) ∧
    decodeBytes [0x6F, 0x34, 0x12] = .ok (.rra (.abs 0x1234), []) ∧
    decodeBytes [0xDB, 0x34, 0x12] = .ok (.dcp (.aby 0x1234), []) ∧
    decodeBytes [0xE7, 0x34] = .ok (.isb (.zp 0x34), []) := by decide

theorem test_decode_undocumented_1 :
    decodeBytes [0xA3, 0x34] = .ok (.lax (.izx 0x34), []) ∧
    decodeBytes [0x87, 0x34] = .ok (.sax (.zp 0x34), []) ∧
    decodeBytes [0x0B, 0x34] = .ok (.anc 0x0B 0x34, []) ∧
    decodeBytes [0x4B, 0x34] = .ok (.asr 0x34, []) ∧
    decodeBytes [0x6B, 0x34] = .ok (.arr 0x34, []) ∧
    decodeBytes [0xCB, 0x34] = .ok (.sbx 0x34, []) ∧
    decodeBytes [0xBB, 0x34, 0x12] = .ok (.las 0x1234, []) ∧
    decodeBytes [0x8B, 0x34] = .ok (.ane 0x34, []) := by decide

theorem test_decode_undocumented_2 :
    decodeBytes [0xAB, 0x34] = .ok (.lxa 0x34, []) ∧
    decodeBytes [0xEB, 0x34] = .ok (.sbcEb 0x34, []) ∧
    decodeBytes [0x1A] = .ok (.nopImp 0x1A, []) ∧
    decodeBytes [0x89, 0x34] = .ok (.nopDop 0x89 (.imm 0x34), []) ∧
    decodeBytes [0xDC, 0x34, 0x12] = .ok (.nopTop 0xDC (.abx 0x1234), []) ∧
    decodeBytes [0x9F, 0x34, 0x12] = .ok (.sha (.aby 0x1234), []) ∧
    decodeBytes [0x9B, 0x34, 0x12] = .ok (.shs 0x1234, []) ∧
    decodeBytes [0x9E, 0x34, 0x12] = .ok (.shx 0x1234, []) := by decide

theorem test_decode_undocumented_3 :
    decodeBytes [0x9C, 0x34, 0x12] = .ok (.shy 0x1234, []) ∧
    decodeBytes [0xB2] = .ok (.jam 0xB2, []) := by decide

/-! ### Single steps -/

/-- The default start state of spec/95_test_vectors.md. -/
def start : State := { State.reset with pc := 0x8000 }

/-- What a test looks at after one step. -/
structure Seen where
  a : Byte
  x : Byte
  y : Byte
  sp : Byte
  pc : Addr
  p : Byte
  run : Run
  cond : Condition
  cycles : Nat
  accesses : List Access
  deriving DecidableEq, Repr

/-- One step, as far as a test looks at it. -/
def afterStep (s : State) : Option Seen :=
  match step s with
  | .next t => some ⟨t.a, t.x, t.y, t.sp, t.pc, t.flags.pack, t.run, t.cond, t.cycles, t.accesses⟩
  | .fault _ => none
  | .refused _ => none

/-- The state after one step. -/
def next (s : State) : State :=
  match step s with
  | .next t => t
  | .fault _ => s
  | .refused _ => s

/-- 95_test_vectors.md V57 izx wrap: `LDA ($FE,X)` (R110, R120). -/
theorem test_lda_v57 :
    afterStep { start with x := 0x01, pc := 0x8000, mem := [(0x0000, 0x12), (0x00FF, 0x34), (0x0100, 0x99), (0x1234, 0x77), (0x8000, 0xA1), (0x8001, 0xFE)] } =
      some ⟨0x77, 0x01, 0x00, 0xFD, 0x8002, 0x24, .running, .none, 6,
        [.read 0x8000 0xA1, .read 0x8001 0xFE, .read 0x00FF 0x34, .read 0x0000 0x12, .read 0x1234 0x77]⟩ := by decide

/-- 95_test_vectors.md V58 izx idx wrap: `LDA ($F0,X)` (R110, R120). -/
theorem test_lda_v58 :
    afterStep { start with x := 0x20, pc := 0x8000, mem := [(0x0011, 0x04), (0x0400, 0x88), (0x8000, 0xA1), (0x8001, 0xF0)] } =
      some ⟨0x88, 0x20, 0x00, 0xFD, 0x8002, 0xA4, .running, .none, 6,
        [.read 0x8000 0xA1, .read 0x8001 0xF0, .read 0x0010 0x00, .read 0x0011 0x04, .read 0x0400 0x88]⟩ := by decide

/-- 95_test_vectors.md V50 zpy wrap: `LDX $FF,Y` (R103, R121). -/
theorem test_ldx_v50 :
    afterStep { start with y := 0x01, pc := 0x8000, mem := [(0x0000, 0x33), (0x0100, 0x44), (0x8000, 0xB6), (0x8001, 0xFF)] } =
      some ⟨0x00, 0x33, 0x01, 0xFD, 0x8002, 0x24, .running, .none, 4,
        [.read 0x8000 0xB6, .read 0x8001 0xFF, .read 0x0000 0x33]⟩ := by decide

/-- 95_test_vectors.md V70 LDY abx: `LDY $02FF,X` (R122). -/
theorem test_ldy_v70 :
    afterStep { start with x := 0x01, pc := 0x8000, mem := [(0x0300, 0x90), (0x8000, 0xBC), (0x8001, 0xFF), (0x8002, 0x02)] } =
      some ⟨0x00, 0x01, 0x90, 0xFD, 0x8003, 0xA4, .running, .none, 5,
        [.read 0x8000 0xBC, .read 0x8001 0xFF, .read 0x8002 0x02, .read 0x0300 0x90]⟩ := by decide

/-- 95_test_vectors.md V63 sta izy: `STA ($10),Y` (R111, R123). -/
theorem test_sta_v63 :
    afterStep { start with a := 0x42, y := 0x01, pc := 0x8000, mem := [(0x0010, 0xFF), (0x0011, 0x02), (0x8000, 0x91), (0x8001, 0x10)] } =
      some ⟨0x42, 0x00, 0x01, 0xFD, 0x8002, 0x24, .running, .none, 6,
        [.read 0x8000 0x91, .read 0x8001 0x10, .read 0x0010 0xFF, .read 0x0011 0x02, .write 0x0300 0x42]⟩ := by decide

/-- 95_test_vectors.md V62 sta abx: `STA $12F0,X` (R105, R123). -/
theorem test_sta_v62 :
    afterStep { start with a := 0x42, x := 0x20, pc := 0x8000, mem := [(0x8000, 0x9D), (0x8001, 0xF0), (0x8002, 0x12)] } =
      some ⟨0x42, 0x20, 0x00, 0xFD, 0x8003, 0x24, .running, .none, 5,
        [.read 0x8000 0x9D, .read 0x8001 0xF0, .read 0x8002 0x12, .write 0x1310 0x42]⟩ := by decide

/-- 95_test_vectors.md V74 STX: `STX $FF,Y` (R124). -/
theorem test_stx_v74 :
    afterStep { start with x := 0x07, y := 0x02, pc := 0x8000, mem := [(0x8000, 0x96), (0x8001, 0xFF)] } =
      some ⟨0x00, 0x07, 0x02, 0xFD, 0x8002, 0x24, .running, .none, 4,
        [.read 0x8000 0x96, .read 0x8001 0xFF, .write 0x0001 0x07]⟩ := by decide

/-- 95_test_vectors.md V75 STY: `STY $2000` (R125). -/
theorem test_sty_v75 :
    afterStep { start with y := 0x99, pc := 0x8000, mem := [(0x8000, 0x8C), (0x8002, 0x20)] } =
      some ⟨0x00, 0x00, 0x99, 0xFD, 0x8003, 0x24, .running, .none, 4,
        [.read 0x8000 0x8C, .read 0x8001 0x00, .read 0x8002 0x20, .write 0x2000 0x99]⟩ := by decide

/-- 95_test_vectors.md V76 TAX: `TAX` (R126). -/
theorem test_tax_v76 :
    afterStep { start with a := 0x00, x := 0x55, pc := 0x8000, mem := [(0x8000, 0xAA)] } =
      some ⟨0x00, 0x00, 0x00, 0xFD, 0x8001, 0x26, .running, .none, 2,
        [.read 0x8000 0xAA]⟩ := by decide

/-- 95_test_vectors.md V77 TAY: `TAY` (R127). -/
theorem test_tay_v77 :
    afterStep { start with a := 0xF0, pc := 0x8000, mem := [(0x8000, 0xA8)] } =
      some ⟨0xF0, 0x00, 0xF0, 0xFD, 0x8001, 0xA4, .running, .none, 2,
        [.read 0x8000 0xA8]⟩ := by decide

/-- 95_test_vectors.md V78 TXA: `TXA` (R128). -/
theorem test_txa_v78 :
    afterStep { start with a := 0xFF, x := 0x01, pc := 0x8000, flags := Flags.unpack 0xA4, mem := [(0x8000, 0x8A)] } =
      some ⟨0x01, 0x01, 0x00, 0xFD, 0x8001, 0x24, .running, .none, 2,
        [.read 0x8000 0x8A]⟩ := by decide

/-- 95_test_vectors.md V79 TYA: `TYA` (R129). -/
theorem test_tya_v79 :
    afterStep { start with y := 0x80, pc := 0x8000, mem := [(0x8000, 0x98)] } =
      some ⟨0x80, 0x00, 0x80, 0xFD, 0x8001, 0xA4, .running, .none, 2,
        [.read 0x8000 0x98]⟩ := by decide

/-- 95_test_vectors.md V80 TSX: `TSX` (R130). -/
theorem test_tsx_v80 :
    afterStep { start with pc := 0x8000, mem := [(0x8000, 0xBA)] } =
      some ⟨0x00, 0xFD, 0x00, 0xFD, 0x8001, 0xA4, .running, .none, 2,
        [.read 0x8000 0xBA]⟩ := by decide

/-- 95_test_vectors.md V81 TXS: `TXS` (R131). -/
theorem test_txs_v81 :
    afterStep { start with x := 0x00, pc := 0x8000, flags := Flags.unpack 0xA4, mem := [(0x8000, 0x9A)] } =
      some ⟨0x00, 0x00, 0x00, 0x00, 0x8001, 0xA4, .running, .none, 2,
        [.read 0x8000 0x9A]⟩ := by decide

/-- 95_test_vectors.md V85 ADC izy: `ADC ($10),Y` (R142). -/
theorem test_adc_v85 :
    afterStep { start with a := 0x01, y := 0xFF, pc := 0x8000, mem := [(0x0010, 0x01), (0x0011, 0x02), (0x0300, 0xFF), (0x8000, 0x71), (0x8001, 0x10)] } =
      some ⟨0x00, 0x00, 0xFF, 0xFD, 0x8002, 0x27, .running, .none, 6,
        [.read 0x8000 0x71, .read 0x8001 0x10, .read 0x0010 0x01, .read 0x0011 0x02, .read 0x0300 0xFF]⟩ := by decide

/-- 95_test_vectors.md V82 ADC D set: `ADC #$19` (R142, R151). -/
theorem test_adc_v82 :
    afterStep { start with a := 0x28, pc := 0x8000, flags := Flags.unpack 0x2C, mem := [(0x8000, 0x69), (0x8001, 0x19)] } =
      some ⟨0x41, 0x00, 0x00, 0xFD, 0x8002, 0x2C, .running, .none, 2,
        [.read 0x8000 0x69, .read 0x8001 0x19]⟩ := by decide

/-- 95_test_vectors.md V83 SBC D set: `SBC #$19` (R143, R151). -/
theorem test_sbc_v83 :
    afterStep { start with a := 0x41, pc := 0x8000, flags := Flags.unpack 0x2D, mem := [(0x8000, 0xE9), (0x8001, 0x19)] } =
      some ⟨0x28, 0x00, 0x00, 0xFD, 0x8002, 0x2D, .running, .none, 2,
        [.read 0x8000 0xE9, .read 0x8001 0x19]⟩ := by decide

/-- 95_test_vectors.md V86 SBC abs: `SBC $0300` (R143). -/
theorem test_sbc_v86 :
    afterStep { start with a := 0x30, pc := 0x8000, flags := Flags.unpack 0x25, mem := [(0x0300, 0x10), (0x8000, 0xED), (0x8002, 0x03)] } =
      some ⟨0x20, 0x00, 0x00, 0xFD, 0x8003, 0x25, .running, .none, 4,
        [.read 0x8000 0xED, .read 0x8001 0x00, .read 0x8002 0x03, .read 0x0300 0x10]⟩ := by decide

/-- 95_test_vectors.md V88 AND zero: `AND #$00` (R144). -/
theorem test_and_v88 :
    afterStep { start with a := 0xFF, pc := 0x8000, flags := Flags.unpack 0x65, mem := [(0x8000, 0x29)] } =
      some ⟨0x00, 0x00, 0x00, 0xFD, 0x8002, 0x67, .running, .none, 2,
        [.read 0x8000 0x29, .read 0x8001 0x00]⟩ := by decide

/-- 95_test_vectors.md V90 ORA zero: `ORA $10` (R145). -/
theorem test_ora_v90 :
    afterStep { start with a := 0x00, pc := 0x8000, mem := [(0x8000, 0x05), (0x8001, 0x10)] } =
      some ⟨0x00, 0x00, 0x00, 0xFD, 0x8002, 0x26, .running, .none, 3,
        [.read 0x8000 0x05, .read 0x8001 0x10, .read 0x0010 0x00]⟩ := by decide

/-- 95_test_vectors.md V91 EOR: `EOR #$FF` (R146). -/
theorem test_eor_v91 :
    afterStep { start with a := 0x0F, pc := 0x8000, mem := [(0x8000, 0x49), (0x8001, 0xFF)] } =
      some ⟨0xF0, 0x00, 0x00, 0xFD, 0x8002, 0xA4, .running, .none, 2,
        [.read 0x8000 0x49, .read 0x8001 0xFF]⟩ := by decide

/-- 95_test_vectors.md V95 CMP lt: `CMP #$01` (R147). -/
theorem test_cmp_v95 :
    afterStep { start with a := 0x00, pc := 0x8000, flags := Flags.unpack 0x65, mem := [(0x8000, 0xC9), (0x8001, 0x01)] } =
      some ⟨0x00, 0x00, 0x00, 0xFD, 0x8002, 0xE4, .running, .none, 2,
        [.read 0x8000 0xC9, .read 0x8001 0x01]⟩ := by decide

/-- 95_test_vectors.md V93 CMP gt: `CMP #$40` (R147). -/
theorem test_cmp_v93 :
    afterStep { start with a := 0x50, pc := 0x8000, mem := [(0x8000, 0xC9), (0x8001, 0x40)] } =
      some ⟨0x50, 0x00, 0x00, 0xFD, 0x8002, 0x25, .running, .none, 2,
        [.read 0x8000 0xC9, .read 0x8001 0x40]⟩ := by decide

/-- 95_test_vectors.md V98 CPX zp: `CPX $10` (R148). -/
theorem test_cpx_v98 :
    afterStep { start with x := 0xFF, pc := 0x8000, mem := [(0x8000, 0xE4), (0x8001, 0x10)] } =
      some ⟨0x00, 0xFF, 0x00, 0xFD, 0x8002, 0xA5, .running, .none, 3,
        [.read 0x8000 0xE4, .read 0x8001 0x10, .read 0x0010 0x00]⟩ := by decide

/-- 95_test_vectors.md V100 CPY abs: `CPY $0300` (R149). -/
theorem test_cpy_v100 :
    afterStep { start with y := 0x7F, pc := 0x8000, mem := [(0x0300, 0x80), (0x8000, 0xCC), (0x8002, 0x03)] } =
      some ⟨0x00, 0x00, 0x7F, 0xFD, 0x8003, 0xA4, .running, .none, 4,
        [.read 0x8000 0xCC, .read 0x8001 0x00, .read 0x8002 0x03, .read 0x0300 0x80]⟩ := by decide

/-- 95_test_vectors.md V103 BIT A=0: `BIT $10` (R150). -/
theorem test_bit_v103 :
    afterStep { start with a := 0x00, pc := 0x8000, flags := Flags.unpack 0x25, mem := [(0x0010, 0x3F), (0x8000, 0x24), (0x8001, 0x10)] } =
      some ⟨0x00, 0x00, 0x00, 0xFD, 0x8002, 0x27, .running, .none, 3,
        [.read 0x8000 0x24, .read 0x8001 0x10, .read 0x0010 0x3F]⟩ := by decide

/-- 95_test_vectors.md V106 ASL zp: `ASL $10` (R160, R87). -/
theorem test_asl_v106 :
    afterStep { start with pc := 0x8000, mem := [(0x0010, 0x40), (0x8000, 0x06), (0x8001, 0x10)] } =
      some ⟨0x00, 0x00, 0x00, 0xFD, 0x8002, 0xA4, .running, .none, 5,
        [.read 0x8000 0x06, .read 0x8001 0x10, .read 0x0010 0x40, .write 0x0010 0x40, .write 0x0010 0x80]⟩ := by decide

/-- 95_test_vectors.md V104 ASL A: `ASL A` (R160). -/
theorem test_asl_v104 :
    afterStep { start with a := 0x81, pc := 0x8000, mem := [(0x8000, 0x0A)] } =
      some ⟨0x02, 0x00, 0x00, 0xFD, 0x8001, 0x25, .running, .none, 2,
        [.read 0x8000 0x0A]⟩ := by decide

/-- 95_test_vectors.md V109 LSR abx: `LSR $12F0,X` (R161, R87). -/
theorem test_lsr_v109 :
    afterStep { start with x := 0x20, pc := 0x8000, mem := [(0x1310, 0xFF), (0x8000, 0x5E), (0x8001, 0xF0), (0x8002, 0x12)] } =
      some ⟨0x00, 0x20, 0x00, 0xFD, 0x8003, 0x25, .running, .none, 7,
        [.read 0x8000 0x5E, .read 0x8001 0xF0, .read 0x8002 0x12, .read 0x1310 0xFF, .write 0x1310 0xFF, .write 0x1310 0x7F]⟩ := by decide

/-- 95_test_vectors.md V112 ROL abs: `ROL $0300` (R162, R87). -/
theorem test_rol_v112 :
    afterStep { start with pc := 0x8000, flags := Flags.unpack 0x25, mem := [(0x8000, 0x2E), (0x8002, 0x03)] } =
      some ⟨0x00, 0x00, 0x00, 0xFD, 0x8003, 0x24, .running, .none, 6,
        [.read 0x8000 0x2E, .read 0x8001 0x00, .read 0x8002 0x03, .read 0x0300 0x00, .write 0x0300 0x00, .write 0x0300 0x01]⟩ := by decide

/-- 95_test_vectors.md V115 ROR zpx: `ROR $F0,X` (R163, R87). -/
theorem test_ror_v115 :
    afterStep { start with x := 0x20, pc := 0x8000, flags := Flags.unpack 0x25, mem := [(0x8000, 0x76), (0x8001, 0xF0)] } =
      some ⟨0x00, 0x20, 0x00, 0xFD, 0x8002, 0xA4, .running, .none, 6,
        [.read 0x8000 0x76, .read 0x8001 0xF0, .read 0x0010 0x00, .write 0x0010 0x00, .write 0x0010 0x80]⟩ := by decide

/-- 95_test_vectors.md V113 ROR A: `ROR A` (R163). -/
theorem test_ror_v113 :
    afterStep { start with a := 0x03, pc := 0x8000, flags := Flags.unpack 0x25, mem := [(0x8000, 0x6A)] } =
      some ⟨0x81, 0x00, 0x00, 0xFD, 0x8001, 0xA5, .running, .none, 2,
        [.read 0x8000 0x6A]⟩ := by decide

/-- 95_test_vectors.md V116 INC: `INC $0300` (R164, R87). -/
theorem test_inc_v116 :
    afterStep { start with pc := 0x8000, flags := Flags.unpack 0x25, mem := [(0x0300, 0xFF), (0x8000, 0xEE), (0x8002, 0x03)] } =
      some ⟨0x00, 0x00, 0x00, 0xFD, 0x8003, 0x27, .running, .none, 6,
        [.read 0x8000 0xEE, .read 0x8001 0x00, .read 0x8002 0x03, .read 0x0300 0xFF, .write 0x0300 0xFF, .write 0x0300 0x00]⟩ := by decide

/-- 95_test_vectors.md V119 DEC 00: `DEC $0300` (R165). -/
theorem test_dec_v119 :
    afterStep { start with pc := 0x8000, mem := [(0x8000, 0xCE), (0x8002, 0x03)] } =
      some ⟨0x00, 0x00, 0x00, 0xFD, 0x8003, 0xA4, .running, .none, 6,
        [.read 0x8000 0xCE, .read 0x8001 0x00, .read 0x8002 0x03, .read 0x0300 0x00, .write 0x0300 0x00, .write 0x0300 0xFF]⟩ := by decide

/-- 95_test_vectors.md V121 INX: `INX` (R166). -/
theorem test_inx_v121 :
    afterStep { start with x := 0xFF, pc := 0x8000, flags := Flags.unpack 0x25, mem := [(0x8000, 0xE8)] } =
      some ⟨0x00, 0x00, 0x00, 0xFD, 0x8001, 0x27, .running, .none, 2,
        [.read 0x8000 0xE8]⟩ := by decide

/-- 95_test_vectors.md V123 INY: `INY` (R167). -/
theorem test_iny_v123 :
    afterStep { start with y := 0x00, pc := 0x8000, mem := [(0x8000, 0xC8)] } =
      some ⟨0x00, 0x00, 0x01, 0xFD, 0x8001, 0x24, .running, .none, 2,
        [.read 0x8000 0xC8]⟩ := by decide

/-- 95_test_vectors.md V124 DEX: `DEX` (R168). -/
theorem test_dex_v124 :
    afterStep { start with x := 0x00, pc := 0x8000, mem := [(0x8000, 0xCA)] } =
      some ⟨0x00, 0xFF, 0x00, 0xFD, 0x8001, 0xA4, .running, .none, 2,
        [.read 0x8000 0xCA]⟩ := by decide

/-- 95_test_vectors.md V126 DEY: `DEY` (R169). -/
theorem test_dey_v126 :
    afterStep { start with y := 0x80, pc := 0x8000, mem := [(0x8000, 0x88)] } =
      some ⟨0x00, 0x00, 0x7F, 0xFD, 0x8001, 0x24, .running, .none, 2,
        [.read 0x8000 0x88]⟩ := by decide

/-- 95_test_vectors.md V26 PHA wrap: `PHA` (R180). -/
theorem test_pha_v26 :
    afterStep { start with a := 0x5A, sp := 0x00, pc := 0x8000, mem := [(0x8000, 0x48)] } =
      some ⟨0x5A, 0x00, 0x00, 0xFF, 0x8001, 0x24, .running, .none, 3,
        [.read 0x8000 0x48, .write 0x0100 0x5A]⟩ := by decide

/-- 95_test_vectors.md V27 PLA wrap: `PLA` (R181). -/
theorem test_pla_v27 :
    afterStep { start with sp := 0xFF, pc := 0x8000, mem := [(0x0100, 0x80), (0x8000, 0x68)] } =
      some ⟨0x80, 0x00, 0x00, 0x00, 0x8001, 0xA4, .running, .none, 4,
        [.read 0x8000 0x68, .read 0x0100 0x80]⟩ := by decide

/-- 95_test_vectors.md V130 PHP: `PHP` (R182). -/
theorem test_php_v130 :
    afterStep { start with pc := 0x8000, mem := [(0x8000, 0x08)] } =
      some ⟨0x00, 0x00, 0x00, 0xFC, 0x8001, 0x24, .running, .none, 3,
        [.read 0x8000 0x08, .write 0x01FD 0x34]⟩ := by decide

/-- 95_test_vectors.md V134 PLP FF: `PLP` (R183). -/
theorem test_plp_v134 :
    afterStep { start with sp := 0xFC, pc := 0x8000, mem := [(0x01FD, 0xFF), (0x8000, 0x28)] } =
      some ⟨0x00, 0x00, 0x00, 0xFD, 0x8001, 0xEF, .running, .none, 4,
        [.read 0x8000 0x28, .read 0x01FD 0xFF]⟩ := by decide

/-- 95_test_vectors.md V136 CLC: `CLC` (R184). -/
theorem test_clc_v136 :
    afterStep { start with pc := 0x8000, flags := Flags.unpack 0x25, mem := [(0x8000, 0x18)] } =
      some ⟨0x00, 0x00, 0x00, 0xFD, 0x8001, 0x24, .running, .none, 2,
        [.read 0x8000 0x18]⟩ := by decide

/-- 95_test_vectors.md V137 SEC: `SEC` (R185). -/
theorem test_sec_v137 :
    afterStep { start with pc := 0x8000, mem := [(0x8000, 0x38)] } =
      some ⟨0x00, 0x00, 0x00, 0xFD, 0x8001, 0x25, .running, .none, 2,
        [.read 0x8000 0x38]⟩ := by decide

/-- 95_test_vectors.md V138 CLI: `CLI` (R186). -/
theorem test_cli_v138 :
    afterStep { start with pc := 0x8000, mem := [(0x8000, 0x58)] } =
      some ⟨0x00, 0x00, 0x00, 0xFD, 0x8001, 0x20, .running, .none, 2,
        [.read 0x8000 0x58]⟩ := by decide

/-- 95_test_vectors.md V139 SEI: `SEI` (R187). -/
theorem test_sei_v139 :
    afterStep { start with pc := 0x8000, flags := Flags.unpack 0x20, mem := [(0x8000, 0x78)] } =
      some ⟨0x00, 0x00, 0x00, 0xFD, 0x8001, 0x24, .running, .none, 2,
        [.read 0x8000 0x78]⟩ := by decide

/-- 95_test_vectors.md V140 CLD: `CLD` (R188). -/
theorem test_cld_v140 :
    afterStep { start with pc := 0x8000, flags := Flags.unpack 0x2C, mem := [(0x8000, 0xD8)] } =
      some ⟨0x00, 0x00, 0x00, 0xFD, 0x8001, 0x24, .running, .none, 2,
        [.read 0x8000 0xD8]⟩ := by decide

/-- 95_test_vectors.md V141 SED: `SED` (R189). -/
theorem test_sed_v141 :
    afterStep { start with pc := 0x8000, mem := [(0x8000, 0xF8)] } =
      some ⟨0x00, 0x00, 0x00, 0xFD, 0x8001, 0x2C, .running, .none, 2,
        [.read 0x8000 0xF8]⟩ := by decide

/-- 95_test_vectors.md V142 CLV: `CLV` (R190). -/
theorem test_clv_v142 :
    afterStep { start with pc := 0x8000, flags := Flags.unpack 0x64, mem := [(0x8000, 0xB8)] } =
      some ⟨0x00, 0x00, 0x00, 0xFD, 0x8001, 0x24, .running, .none, 2,
        [.read 0x8000 0xB8]⟩ := by decide

/-- 95_test_vectors.md V143 NOP: `NOP` (R191). -/
theorem test_nop_v143 :
    afterStep { start with a := 0x12, x := 0x34, y := 0x56, pc := 0x8000, flags := Flags.unpack 0xE7, mem := [(0x8000, 0xEA)] } =
      some ⟨0x12, 0x34, 0x56, 0xFD, 0x8001, 0xE7, .running, .none, 2,
        [.read 0x8000 0xEA]⟩ := by decide

/-- 95_test_vectors.md V42 JMP ind wrap: `JMP ($30FF)` (R200, R109). -/
theorem test_jmp_v42 :
    afterStep { start with pc := 0x8000, mem := [(0x3000, 0x50), (0x30FF, 0x80), (0x3100, 0x40), (0x8000, 0x6C), (0x8001, 0xFF), (0x8002, 0x30)] } =
      some ⟨0x00, 0x00, 0x00, 0xFD, 0x5080, 0x24, .running, .none, 5,
        [.read 0x8000 0x6C, .read 0x8001 0xFF, .read 0x8002 0x30, .read 0x30FF 0x80, .read 0x3000 0x50]⟩ := by decide

/-- 95_test_vectors.md V43 JMP ind: `JMP ($3010)` (R200, R109). -/
theorem test_jmp_v43 :
    afterStep { start with pc := 0x8000, mem := [(0x3010, 0x34), (0x3011, 0x12), (0x8000, 0x6C), (0x8001, 0x10), (0x8002, 0x30)] } =
      some ⟨0x00, 0x00, 0x00, 0xFD, 0x1234, 0x24, .running, .none, 5,
        [.read 0x8000 0x6C, .read 0x8001 0x10, .read 0x8002 0x30, .read 0x3010 0x34, .read 0x3011 0x12]⟩ := by decide

/-- 95_test_vectors.md V30 JSR at FFFD: `JSR $1234` (R201). -/
theorem test_jsr_v30 :
    afterStep { start with pc := 0xFFFD, mem := [(0xFFFD, 0x20), (0xFFFE, 0x34), (0xFFFF, 0x12)] } =
      some ⟨0x00, 0x00, 0x00, 0xFB, 0x1234, 0x24, .running, .none, 6,
        [.read 0xFFFD 0x20, .read 0xFFFE 0x34, .read 0xFFFF 0x12, .write 0x01FD 0xFF, .write 0x01FC 0xFF]⟩ := by decide

/-- 95_test_vectors.md V32 JSR at FFFE: `JSR $0040` (R201). -/
theorem test_jsr_v32 :
    afterStep { start with pc := 0xFFFE, mem := [(0xFFFE, 0x20), (0xFFFF, 0x40)] } =
      some ⟨0x00, 0x00, 0x00, 0xFB, 0x0040, 0x24, .running, .none, 6,
        [.read 0xFFFE 0x20, .read 0xFFFF 0x40, .read 0x0000 0x00, .write 0x01FD 0x00, .write 0x01FC 0x00]⟩ := by decide

/-- 95_test_vectors.md V31 RTS to 0000: `RTS` (R202). -/
theorem test_rts_v31 :
    afterStep { start with sp := 0xFB, pc := 0x1234, mem := [(0x01FC, 0xFF), (0x01FD, 0xFF), (0x1234, 0x60)] } =
      some ⟨0x00, 0x00, 0x00, 0xFD, 0x0000, 0x24, .running, .none, 6,
        [.read 0x1234 0x60, .read 0x01FC 0xFF, .read 0x01FD 0xFF]⟩ := by decide

/-- 95_test_vectors.md V38 BRK: `BRK` (R203). -/
theorem test_brk_v38 :
    afterStep { start with pc := 0x8000, flags := Flags.unpack 0xA1, mem := [(0xFFFF, 0x90)] } =
      some ⟨0x00, 0x00, 0x00, 0xFA, 0x9000, 0xA5, .running, .none, 7,
        [.read 0x8000 0x00, .write 0x01FD 0x80, .write 0x01FC 0x02, .write 0x01FB 0xB1, .read 0xFFFE 0x00, .read 0xFFFF 0x90]⟩ := by decide

/-- 95_test_vectors.md V41 RTI: `RTI` (R204). -/
theorem test_rti_v41 :
    afterStep { start with sp := 0xFA, pc := 0x9000, flags := Flags.unpack 0x24, mem := [(0x01FB, 0xB1), (0x01FC, 0x02), (0x01FD, 0x80), (0x9000, 0x40)] } =
      some ⟨0x00, 0x00, 0x00, 0xFD, 0x8002, 0xA1, .running, .none, 6,
        [.read 0x9000 0x40, .read 0x01FB 0xB1, .read 0x01FC 0x02, .read 0x01FD 0x80]⟩ := by decide

/-- 95_test_vectors.md V159 branch wrap up: `BPL *+$12` (R205). -/
theorem test_bpl_v159 :
    afterStep { start with pc := 0xFFFE, mem := [(0xFFFE, 0x10), (0xFFFF, 0x10)] } =
      some ⟨0x00, 0x00, 0x00, 0xFD, 0x0010, 0x24, .running, .none, 3,
        [.read 0xFFFE 0x10, .read 0xFFFF 0x10]⟩ := by decide

/-- 95_test_vectors.md V146 BMI t: `BMI *-3` (R207). -/
theorem test_bmi_v146 :
    afterStep { start with pc := 0x8000, flags := Flags.unpack 0xA4, mem := [(0x8000, 0x30), (0x8001, 0xFB)] } =
      some ⟨0x00, 0x00, 0x00, 0xFD, 0x7FFD, 0xA4, .running, .none, 4,
        [.read 0x8000 0x30, .read 0x8001 0xFB]⟩ := by decide

/-- 95_test_vectors.md V148 BVC t: `BVC *+$12` (R208). -/
theorem test_bvc_v148 :
    afterStep { start with pc := 0x8000, mem := [(0x8000, 0x50), (0x8001, 0x10)] } =
      some ⟨0x00, 0x00, 0x00, 0xFD, 0x8012, 0x24, .running, .none, 3,
        [.read 0x8000 0x50, .read 0x8001 0x10]⟩ := by decide

/-- 95_test_vectors.md V150 BVS t: `BVS *+$12` (R209). -/
theorem test_bvs_v150 :
    afterStep { start with pc := 0x8000, flags := Flags.unpack 0x64, mem := [(0x8000, 0x70), (0x8001, 0x10)] } =
      some ⟨0x00, 0x00, 0x00, 0xFD, 0x8012, 0x64, .running, .none, 3,
        [.read 0x8000 0x70, .read 0x8001 0x10]⟩ := by decide

/-- 95_test_vectors.md V152 BCC t: `BCC *+$22` (R210). -/
theorem test_bcc_v152 :
    afterStep { start with pc := 0x80F0, mem := [(0x80F0, 0x90), (0x80F1, 0x20)] } =
      some ⟨0x00, 0x00, 0x00, 0xFD, 0x8112, 0x24, .running, .none, 4,
        [.read 0x80F0 0x90, .read 0x80F1 0x20]⟩ := by decide

/-- 95_test_vectors.md V154 BCS t: `BCS *+$81` (R211). -/
theorem test_bcs_v154 :
    afterStep { start with pc := 0x8000, flags := Flags.unpack 0x25, mem := [(0x8000, 0xB0), (0x8001, 0x7F)] } =
      some ⟨0x00, 0x00, 0x00, 0xFD, 0x8081, 0x25, .running, .none, 3,
        [.read 0x8000 0xB0, .read 0x8001 0x7F]⟩ := by decide

/-- 95_test_vectors.md V36 BNE taken back: `BNE *-2` (R212). -/
theorem test_bne_v36 :
    afterStep { start with pc := 0xC000, flags := Flags.unpack 0x24, mem := [(0xC000, 0xD0), (0xC001, 0xFC)] } =
      some ⟨0x00, 0x00, 0x00, 0xFD, 0xBFFE, 0x24, .running, .none, 4,
        [.read 0xC000 0xD0, .read 0xC001 0xFC]⟩ := by decide

/-- 95_test_vectors.md V37 BNE to self: `BNE *` (R212). -/
theorem test_bne_v37 :
    afterStep { start with pc := 0x8000, flags := Flags.unpack 0x24, mem := [(0x8000, 0xD0), (0x8001, 0xFE)] } =
      some ⟨0x00, 0x00, 0x00, 0xFD, 0x8000, 0x24, .running, .none, 3,
        [.read 0x8000 0xD0, .read 0x8001 0xFE]⟩ := by decide

/-- 95_test_vectors.md V158 BEQ back max: `BEQ *-126` (R213). -/
theorem test_beq_v158 :
    afterStep { start with pc := 0x8000, flags := Flags.unpack 0x26, mem := [(0x8000, 0xF0), (0x8001, 0x80)] } =
      some ⟨0x00, 0x00, 0x00, 0xFD, 0x7F82, 0x26, .running, .none, 4,
        [.read 0x8000 0xF0, .read 0x8001 0x80]⟩ := by decide

/-- 95_test_vectors.md V163 SLO c: `SLO $0300,Y` (R220). -/
theorem test_slo_v163 :
    afterStep { start with a := 0x00, y := 0x01, pc := 0x8000, mem := [(0x0301, 0x80), (0x8000, 0x1B), (0x8002, 0x03)] } =
      some ⟨0x00, 0x00, 0x01, 0xFD, 0x8003, 0x27, .running, .none, 7,
        [.read 0x8000 0x1B, .read 0x8001 0x00, .read 0x8002 0x03, .read 0x0301 0x80, .write 0x0301 0x80, .write 0x0301 0x00]⟩ := by decide

/-- 95_test_vectors.md V165 RLA izx: `RLA ($20,X)` (R221). -/
theorem test_rla_v165 :
    afterStep { start with a := 0xFF, x := 0x00, pc := 0x8000, mem := [(0x0021, 0x03), (0x0300, 0x80), (0x8000, 0x23), (0x8001, 0x20)] } =
      some ⟨0x00, 0x00, 0x00, 0xFD, 0x8002, 0x27, .running, .none, 8,
        [.read 0x8000 0x23, .read 0x8001 0x20, .read 0x0020 0x00, .read 0x0021 0x03, .read 0x0300 0x80, .write 0x0300 0x80, .write 0x0300 0x00]⟩ := by decide

/-- 95_test_vectors.md V167 SRE abx: `SRE $0300,X` (R222). -/
theorem test_sre_v167 :
    afterStep { start with a := 0xFF, x := 0x02, pc := 0x8000, mem := [(0x0302, 0xFE), (0x8000, 0x5F), (0x8002, 0x03)] } =
      some ⟨0x80, 0x02, 0x00, 0xFD, 0x8003, 0xA4, .running, .none, 7,
        [.read 0x8000 0x5F, .read 0x8001 0x00, .read 0x8002 0x03, .read 0x0302 0xFE, .write 0x0302 0xFE, .write 0x0302 0x7F]⟩ := by decide

/-- 95_test_vectors.md V169 RRA carry: `RRA $10` (R223). -/
theorem test_rra_v169 :
    afterStep { start with a := 0xFF, pc := 0x8000, mem := [(0x0010, 0x01), (0x8000, 0x67), (0x8001, 0x10)] } =
      some ⟨0x00, 0x00, 0x00, 0xFD, 0x8002, 0x27, .running, .none, 5,
        [.read 0x8000 0x67, .read 0x8001 0x10, .read 0x0010 0x01, .write 0x0010 0x01, .write 0x0010 0x00]⟩ := by decide

/-- 95_test_vectors.md V172 DCP wrap: `DCP ($10),Y` (R224). -/
theorem test_dcp_v172 :
    afterStep { start with a := 0xFF, y := 0x01, pc := 0x8000, mem := [(0x0010, 0xFF), (0x0011, 0x02), (0x8000, 0xD3), (0x8001, 0x10)] } =
      some ⟨0xFF, 0x00, 0x01, 0xFD, 0x8002, 0x27, .running, .none, 8,
        [.read 0x8000 0xD3, .read 0x8001 0x10, .read 0x0010 0xFF, .read 0x0011 0x02, .read 0x0300 0x00, .write 0x0300 0x00, .write 0x0300 0xFF]⟩ := by decide

/-- 95_test_vectors.md V174 ISB wrap: `ISB $0300` (R225). -/
theorem test_isb_v174 :
    afterStep { start with a := 0x55, pc := 0x8000, flags := Flags.unpack 0x25, mem := [(0x0300, 0xFF), (0x8000, 0xEF), (0x8002, 0x03)] } =
      some ⟨0x55, 0x00, 0x00, 0xFD, 0x8003, 0x25, .running, .none, 6,
        [.read 0x8000 0xEF, .read 0x8001 0x00, .read 0x8002 0x03, .read 0x0300 0xFF, .write 0x0300 0xFF, .write 0x0300 0x00]⟩ := by decide

/-- 95_test_vectors.md V175 ISB borrow: `ISB $10` (R225). -/
theorem test_isb_v175 :
    afterStep { start with a := 0x00, pc := 0x8000, flags := Flags.unpack 0x24, mem := [(0x8000, 0xE7), (0x8001, 0x10)] } =
      some ⟨0xFE, 0x00, 0x00, 0xFD, 0x8002, 0xA4, .running, .none, 5,
        [.read 0x8000 0xE7, .read 0x8001 0x10, .read 0x0010 0x00, .write 0x0010 0x00, .write 0x0010 0x01]⟩ := by decide

/-- 95_test_vectors.md V178 LAX aby: `LAX $02FF,Y` (R226). -/
theorem test_lax_v178 :
    afterStep { start with y := 0x01, pc := 0x8000, mem := [(0x0300, 0x33), (0x8000, 0xBF), (0x8001, 0xFF), (0x8002, 0x02)] } =
      some ⟨0x33, 0x33, 0x01, 0xFD, 0x8003, 0x24, .running, .none, 5,
        [.read 0x8000 0xBF, .read 0x8001 0xFF, .read 0x8002 0x02, .read 0x0300 0x33]⟩ := by decide

/-- 95_test_vectors.md V180 SAX izx: `SAX ($20,X)` (R227). -/
theorem test_sax_v180 :
    afterStep { start with a := 0xFF, x := 0x02, pc := 0x8000, mem := [(0x0023, 0x04), (0x8000, 0x83), (0x8001, 0x20)] } =
      some ⟨0xFF, 0x02, 0x00, 0xFD, 0x8002, 0x24, .running, .none, 6,
        [.read 0x8000 0x83, .read 0x8001 0x20, .read 0x0022 0x00, .read 0x0023 0x04, .write 0x0400 0x02]⟩ := by decide

/-- 95_test_vectors.md V182 ANC 2B: `ANC #$7F` (R228). -/
theorem test_anc_v182 :
    afterStep { start with a := 0xFF, pc := 0x8000, flags := Flags.unpack 0x25, mem := [(0x8000, 0x2B), (0x8001, 0x7F)] } =
      some ⟨0x7F, 0x00, 0x00, 0xFD, 0x8002, 0x24, .running, .none, 2,
        [.read 0x8000 0x2B, .read 0x8001 0x7F]⟩ := by decide

/-- 95_test_vectors.md V183 ASR: `ASR #$03` (R229). -/
theorem test_asr_v183 :
    afterStep { start with a := 0xFF, pc := 0x8000, mem := [(0x8000, 0x4B), (0x8001, 0x03)] } =
      some ⟨0x01, 0x00, 0x00, 0xFD, 0x8002, 0x25, .running, .none, 2,
        [.read 0x8000 0x4B, .read 0x8001 0x03]⟩ := by decide

/-- 95_test_vectors.md V185 ARR v: `ARR #$FF` (R230). -/
theorem test_arr_v185 :
    afterStep { start with a := 0x80, pc := 0x8000, flags := Flags.unpack 0x24, mem := [(0x8000, 0x6B), (0x8001, 0xFF)] } =
      some ⟨0x40, 0x00, 0x00, 0xFD, 0x8002, 0x65, .running, .none, 2,
        [.read 0x8000 0x6B, .read 0x8001 0xFF]⟩ := by decide

/-- 95_test_vectors.md V186 ARR z: `ARR #$00` (R230). -/
theorem test_arr_v186 :
    afterStep { start with a := 0xFF, pc := 0x8000, flags := Flags.unpack 0x24, mem := [(0x8000, 0x6B)] } =
      some ⟨0x00, 0x00, 0x00, 0xFD, 0x8002, 0x26, .running, .none, 2,
        [.read 0x8000 0x6B, .read 0x8001 0x00]⟩ := by decide

/-- 95_test_vectors.md V188 SBX lt: `SBX #$40` (R231). -/
theorem test_sbx_v188 :
    afterStep { start with a := 0xFF, x := 0x30, pc := 0x8000, flags := Flags.unpack 0x65, mem := [(0x8000, 0xCB), (0x8001, 0x40)] } =
      some ⟨0xFF, 0xF0, 0x00, 0xFD, 0x8002, 0xE4, .running, .none, 2,
        [.read 0x8000 0xCB, .read 0x8001 0x40]⟩ := by decide

/-- 95_test_vectors.md V187 SBX: `SBX #$10` (R231). -/
theorem test_sbx_v187 :
    afterStep { start with a := 0xF0, x := 0x3F, pc := 0x8000, mem := [(0x8000, 0xCB), (0x8001, 0x10)] } =
      some ⟨0xF0, 0x20, 0x00, 0xFD, 0x8002, 0x25, .running, .none, 2,
        [.read 0x8000 0xCB, .read 0x8001 0x10]⟩ := by decide

/-- 95_test_vectors.md V189 LAS: `LAS $0200,Y` (R232). -/
theorem test_las_v189 :
    afterStep { start with pc := 0x8000, mem := [(0x0200, 0x0F), (0x8000, 0xBB), (0x8002, 0x02)] } =
      some ⟨0x0D, 0x0D, 0x00, 0x0D, 0x8003, 0x24, .running, .none, 4,
        [.read 0x8000 0xBB, .read 0x8001 0x00, .read 0x8002 0x02, .read 0x0200 0x0F]⟩ := by decide

/-- 95_test_vectors.md V197 SBC EB: `SBC #$01` (R235). -/
theorem test_sbcEb_v197 :
    afterStep { start with a := 0x00, pc := 0x8000, flags := Flags.unpack 0x25, mem := [(0x8000, 0xEB), (0x8001, 0x01)] } =
      some ⟨0xFF, 0x00, 0x00, 0xFD, 0x8002, 0xA4, .running, .none, 2,
        [.read 0x8000 0xEB, .read 0x8001 0x01]⟩ := by decide

/-- 95_test_vectors.md V198 NOP 1A: `NOP` (R236). -/
theorem test_nopImp_v198 :
    afterStep { start with pc := 0x8000, mem := [(0x8000, 0x1A)] } =
      some ⟨0x00, 0x00, 0x00, 0xFD, 0x8001, 0x24, .running, .none, 2,
        [.read 0x8000 0x1A]⟩ := by decide

/-- 95_test_vectors.md V200 NOP 04: `NOP $10` (R237). -/
theorem test_nopDop_v200 :
    afterStep { start with pc := 0x8000, mem := [(0x0010, 0x99), (0x8000, 0x04), (0x8001, 0x10)] } =
      some ⟨0x00, 0x00, 0x00, 0xFD, 0x8002, 0x24, .running, .none, 3,
        [.read 0x8000 0x04, .read 0x8001 0x10, .read 0x0010 0x99]⟩ := by decide

/-- 95_test_vectors.md V202 NOP 0C: `NOP $1234` (R238). -/
theorem test_nopTop_v202 :
    afterStep { start with pc := 0x8000, mem := [(0x1234, 0x80), (0x8000, 0x0C), (0x8001, 0x34), (0x8002, 0x12)] } =
      some ⟨0x00, 0x00, 0x00, 0xFD, 0x8003, 0x24, .running, .none, 4,
        [.read 0x8000 0x0C, .read 0x8001 0x34, .read 0x8002 0x12, .read 0x1234 0x80]⟩ := by decide

/-- 95_test_vectors.md V204 SHA aby: `SHA $0200,Y` (R239, R262). -/
theorem test_sha_v204 :
    afterStep { start with a := 0xFF, x := 0xFF, y := 0x01, pc := 0x8000, mem := [(0x8000, 0x9F), (0x8002, 0x02)] } =
      some ⟨0xFF, 0xFF, 0x01, 0xFD, 0x8000, 0x24, .running, .unstable 0x9F, 0,
        [.read 0x8000 0x9F]⟩ := by decide

/-- 95_test_vectors.md V206 SHS: `SHS $0200,Y` (R240, R262). -/
theorem test_shs_v206 :
    afterStep { start with a := 0x0F, x := 0xF0, pc := 0x8000, mem := [(0x8000, 0x9B), (0x8002, 0x02)] } =
      some ⟨0x0F, 0xF0, 0x00, 0xFD, 0x8000, 0x24, .running, .unstable 0x9B, 0,
        [.read 0x8000 0x9B]⟩ := by decide

/-- 95_test_vectors.md V207 SHX: `SHX $0200,Y` (R241, R262). -/
theorem test_shx_v207 :
    afterStep { start with pc := 0x8000, mem := [(0x8000, 0x9E), (0x8002, 0x02)] } =
      some ⟨0x00, 0x00, 0x00, 0xFD, 0x8000, 0x24, .running, .unstable 0x9E, 0,
        [.read 0x8000 0x9E]⟩ := by decide

/-- 95_test_vectors.md V208 SHY: `SHY $0200,X` (R242, R262). -/
theorem test_shy_v208 :
    afterStep { start with pc := 0x8000, mem := [(0x8000, 0x9C), (0x8002, 0x02)] } =
      some ⟨0x00, 0x00, 0x00, 0xFD, 0x8000, 0x24, .running, .unstable 0x9C, 0,
        [.read 0x8000 0x9C]⟩ := by decide

/-- 95_test_vectors.md V209 JAM 02: `JAM` (R243, R261). -/
theorem test_jam_v209 :
    afterStep { start with a := 0x12, pc := 0x8000, flags := Flags.unpack 0xE7, mem := [(0x8000, 0x02)] } =
      some ⟨0x12, 0x00, 0x00, 0xFD, 0x8000, 0xE7, .halted, .halted, 0,
        [.read 0x8000 0x02]⟩ := by decide

/-- LXA and ANE with operand 0x00: the constant cannot be seen (R233, R234). -/
theorem test_lxa_pc : (next { start with a := 0x55, mem := [(0x8000, 0xAB)] }).pc = 0x8002 := by decide

theorem test_ane_pc : (next { start with a := 0x55, mem := [(0x8000, 0x8B), (0x8001, 0x0F)] }).pc = 0x8002 := by decide

/-- A device's byte is free: the step runs on it whatever it is, and a write there leaves plain memory alone. -/
theorem test_device_write :
    (next { start with a := 0x42, devices := [⟨0x2000, 0x3FFF⟩], mem := [(0x8000, 0x8D), (0x8002, 0x20)] }).mem =
      [(0x8000, 0x8D), (0x8002, 0x20)] := by decide

theorem test_device_read_pc :
    (next { start with devices := [⟨0x2000, 0x3FFF⟩], mem := [(0x8000, 0xAD), (0x8001, 0x02), (0x8002, 0x20)] }).pc = 0x8003 := by
  decide

/-! ### The host's operations -/

theorem test_reset_is_power_on : State.powerOn [] [] = State.reset ∧ State.reset.flags.pack = 0x24 := by decide

/-- The vector is read low byte first (R283). -/
theorem test_reset_vector : (State.powerOn [(0xFFFC, 0x34), (0xFFFD, 0x12)] []).pc = 0x1234 := by decide

theorem test_reset_unhalts :
    ({ start with run := .halted, cond := .halted, a := 0x55, mem := [(0x0200, 0x77)] }).hostReset.run = .running ∧
    ({ start with run := .halted, cond := .halted, a := 0x55, mem := [(0x0200, 0x77)] }).hostReset.mem = [(0x0200, 0x77)] := by decide

theorem test_place_word :
    ((start.withFetchWord 16 0x42A9).mem = [(0x8000, 0xA9), (0x8001, 0x42)]) ∧ (next (start.withFetchWord 16 0x42A9)).a = 0x42 := by
  decide

theorem test_trace_line : ({ start with mem := [(0x8000, 0xA9), (0x8001, 0x42)] }).traceLine = "8000 LDA A:00 X:00 Y:00 P:24 SP:FD" := by
  decide

/-- The examples of R69. -/
theorem test_asm_text :
    asmText (.lda (.imm 0x10)) 0 = "LDA #$10" ∧ asmText (.sta (.abx 0x0200)) 0 = "STA $0200,X" ∧
    asmText (.jmp (.ind 0x30FF)) 0 = "JMP ($30FF)" ∧ asmText (.lsr .acc) 0 = "LSR A" ∧ asmText (.bne 0xFE) 0xC010 = "BNE $C010" := by
  decide

/-! ### Witnesses: for each obligation with hypotheses, values that meet them -/

theorem test_wit_LdaLdxLdyLoad :
    (⟨0xA9, .imm, 2, false⟩ ∈ ldaRows ∧ (Src.imm 0xFF).mode = .imm) ∧ (⟨0xB1, .izy, 5, true⟩ ∈ ldaRows ∧ (Src.mem (.izy 0xFF)).mode = .izy) ∧
    (⟨0xB6, .zpy, 4, false⟩ ∈ ldxRows ∧ (Src.mem (.zpy 0xFF)).mode = .zpy) ∧
    (⟨0xBC, .abx, 4, true⟩ ∈ ldyRows ∧ (Src.mem (.abx 0xFFFF)).mode = .abx) := by decide

theorem test_wit_StaStxStyStore :
    (⟨0x91, .izy, 6, false⟩ ∈ staRows ∧ (MemArg.izy 0xFF).mode = .izy) ∧ (⟨0x96, .zpy, 4, false⟩ ∈ stxRows ∧ (MemArg.zpy 0xFF).mode = .zpy) ∧
    (⟨0x8C, .abs, 4, false⟩ ∈ styRows ∧ (MemArg.abs 0xFFFF).mode = .abs) := by decide

theorem test_wit_AdcSbcAccumulate :
    (⟨0x69, .imm, 2, false⟩ ∈ adcRows ∧ (Src.imm 0x00).mode = .imm) ∧ (⟨0xFD, .abx, 4, true⟩ ∈ sbcRows ∧ (Src.mem (.abx 0xFFFF)).mode = .abx) := by
  decide

theorem test_wit_LogicOperations :
    (⟨0x29, .imm, 2, false⟩ ∈ andRows ∧ (Src.imm 0x00).mode = .imm) ∧ (⟨0x01, .izx, 6, false⟩ ∈ oraRows ∧ (Src.mem (.izx 0xFF)).mode = .izx) ∧
    (⟨0x59, .aby, 4, true⟩ ∈ eorRows ∧ (Src.mem (.aby 0xFFFF)).mode = .aby) := by decide

theorem test_wit_CompareOperations :
    (⟨0xC1, .izx, 6, false⟩ ∈ cmpRows ∧ (Src.mem (.izx 0xFF)).mode = .izx) ∧ (⟨0xE0, .imm, 2, false⟩ ∈ cpxRows ∧ (Src.imm 0xFF).mode = .imm) ∧
    (⟨0xCC, .abs, 4, false⟩ ∈ cpyRows ∧ (Src.mem (.abs 0xFFFF)).mode = .abs) := by decide

theorem test_wit_BitTest :
    (⟨0x24, .zp, 3, false⟩ ∈ bitRows ∧ (MemArg.zp 0xFF).mode = .zp) ∧ (⟨0x2C, .abs, 4, false⟩ ∈ bitRows ∧ (MemArg.abs 0xFFFF).mode = .abs) := by
  decide

/-- The accumulator clause and the memory clause. -/
theorem test_wit_ShiftsAndRotates :
    (⟨0x0A, .acc, 2, false⟩ ∈ aslRows ∧ (⟨0x1E, .abx, 7, false⟩ ∈ aslRows ∧ (MemArg.abx 0xFFFF).mode = .abx)) ∧
    (⟨0x4A, .acc, 2, false⟩ ∈ lsrRows ∧ (⟨0x46, .zp, 5, false⟩ ∈ lsrRows ∧ (MemArg.zp 0x00).mode = .zp)) ∧
    (⟨0x2A, .acc, 2, false⟩ ∈ rolRows ∧ (⟨0x36, .zpx, 6, false⟩ ∈ rolRows ∧ (MemArg.zpx 0xFF).mode = .zpx)) ∧
    (⟨0x6A, .acc, 2, false⟩ ∈ rorRows ∧ (⟨0x6E, .abs, 6, false⟩ ∈ rorRows ∧ (MemArg.abs 0x0000).mode = .abs)) := by decide

theorem test_wit_MemoryIncrementDecrement :
    (⟨0xFE, .abx, 7, false⟩ ∈ incRows ∧ (MemArg.abx 0xFFFF).mode = .abx) ∧ (⟨0xC6, .zp, 5, false⟩ ∈ decRows ∧ (MemArg.zp 0x00).mode = .zp) := by
  decide

theorem test_wit_FusedShiftLogic :
    (⟨0x1B, .aby, 7, false⟩ ∈ sloRows ∧ (MemArg.aby 0xFFFF).mode = .aby) ∧ (⟨0x23, .izx, 8, false⟩ ∈ rlaRows ∧ (MemArg.izx 0xFF).mode = .izx) ∧
    (⟨0x53, .izy, 8, false⟩ ∈ sreRows ∧ (MemArg.izy 0xFF).mode = .izy) := by decide

theorem test_wit_FusedArithmetic :
    (⟨0x67, .zp, 5, false⟩ ∈ rraRows ∧ (MemArg.zp 0xFF).mode = .zp) ∧ (⟨0xD7, .zpx, 6, false⟩ ∈ dcpRows ∧ (MemArg.zpx 0xFF).mode = .zpx) ∧
    (⟨0xF3, .izy, 8, false⟩ ∈ isbRows ∧ (MemArg.izy 0xFF).mode = .izy) := by decide

theorem test_wit_LaxSaxLas :
    (⟨0xBF, .aby, 4, true⟩ ∈ laxRows ∧ (MemArg.aby 0xFFFF).mode = .aby) ∧ (⟨0x97, .zpy, 4, false⟩ ∈ saxRows ∧ (MemArg.zpy 0xFF).mode = .zpy) := by
  decide

theorem test_wit_NoOperations :
    0x1A ∈ Instr.nopImpCodes ∧ 0xFA ∈ Instr.nopImpCodes ∧ (⟨0x80, .imm, 2, false⟩ ∈ dopRows ∧ (Src.imm 0xFF).mode = .imm) ∧
    (⟨0xF4, .zpx, 4, false⟩ ∈ dopRows ∧ (Src.mem (.zpx 0xFF)).mode = .zpx) ∧
    (⟨0x0C, .abs, 4, false⟩ ∈ topRows ∧ (MemArg.abs 0xFFFF).mode = .abs) ∧ (⟨0xFC, .abx, 4, true⟩ ∈ topRows ∧ (MemArg.abx 0xFFFF).mode = .abx) := by
  decide

theorem test_wit_ImmediateCombinations : 0x0B ∈ Instr.ancCodes ∧ 0x2B ∈ Instr.ancCodes := by decide

theorem test_wit_JamHalts : 0x02 ∈ Instr.jamCodes ∧ 0xF2 ∈ Instr.jamCodes := by decide

/-- Either half of the disjunction. -/
theorem test_wit_AneLxaForEveryMagic :
    ((0x00 : Byte) = 0x00 ∨ ({ start with x := 0xFF }).x = 0x00) ∧ ((0xFF : Byte) = 0x00 ∨ ({ start with x := 0x00 }).x = 0x00) := by
  decide

/-- The lowest and the highest address, a device beside them. -/
theorem test_wit_BusReadAfterWrite :
    let s := { start with devices := [⟨0x2000, 0x3FFF⟩], mem := [(0x0000, 0x01), (0xFFFF, 0x02)] }
    s.mem.wf = true ∧ s.isDevice 0x0000 = false ∧ s.isDevice 0xFFFF = false ∧ s.isDevice 0x1FFF = false ∧ s.isDevice 0x4000 = false ∧
    (0xFFFF : Addr) ≠ 0x0000 := by decide

/-- S = 0x00: the push wraps. -/
theorem test_wit_StackPushAndPull : let s := { start with sp := 0x00 }
    s.mem.wf = true ∧ s.isDevice (stackAddr s.sp) = false := by decide

theorem test_wit_StackWordRoundTrip : let s := { start with sp := 0x00 }
    s.mem.wf = true ∧ s.isDevice (stackAddr s.sp) = false ∧ s.isDevice (stackAddr (s.sp - 1)) = false := by decide

theorem test_wit_RtsReturns : let s := { start with sp := 0x00, pc := 0xFFFD }
    s.mem.wf = true ∧ s.isDevice (stackAddr s.sp) = false ∧ s.isDevice (stackAddr (s.sp - 1)) = false := by decide

theorem test_wit_RtiReturns : let s := { start with sp := 0x01, pc := 0xFFFF }
    s.mem.wf = true ∧ s.isDevice (stackAddr s.sp) = false ∧ s.isDevice (stackAddr (s.sp - 1)) = false ∧
    s.isDevice (stackAddr (s.sp - 2)) = false := by decide

theorem test_wit_ResolverComputesAddress :
    (MemArg.zp 0xFF).mode = .zp ∧ (MemArg.zpx 0xFF).mode = .zpx ∧ (MemArg.zpy 0xFF).mode = .zpy := by decide

/-- One instruction of each operand form. -/
theorem test_wit_DecodeEncodeRoundTrip :
    (Instr.lda (.imm 0xFF)).wellFormed = true ∧ (Instr.asl .acc).wellFormed = true ∧ (Instr.slo (.izy 0xFF)).wellFormed = true ∧
    (Instr.jmp (.ind 0xFFFF)).wellFormed = true ∧ (Instr.anc 0x2B 0x00).wellFormed = true ∧ (Instr.nopTop 0xFC (.abx 0xFFFF)).wellFormed = true ∧
    (Instr.jam 0xF2).wellFormed = true := by decide

/-- An instruction of length 3 whose bytes wrap around the top of the address space, and one of length 1. -/
theorem test_wit_StepRunsDecoded :
    let s := { start with pc := 0xFFFE, mem := [(0x0000, 0x12), (0xFFFE, 0xAD), (0xFFFF, 0x34)] }
    let i := Instr.lda (.mem (.abs 0x1234))
    let s' := { start with mem := [(0x8000, 0xEA)] }
    (s.run = .running ∧ i.wellFormed = true ∧
      encode i = [s.busValue 0 s.pc, s.busValue 1 (s.pc + 1), s.busValue 2 (s.pc + 2)].take i.mode.length) ∧
    (s'.run = .running ∧ Instr.nop.wellFormed = true ∧
      encode .nop = [s'.busValue 0 s'.pc, s'.busValue 1 (s'.pc + 1), s'.busValue 2 (s'.pc + 2)].take Instr.nop.mode.length) := by decide

theorem test_wit_HaltedStepDoesNothing : ({ start with run := .halted, cond := .halted }).run = .halted := by decide

/-- A running state and a halted one that meet the invariant, with their next states. -/
theorem test_wit_StepKeepsInvariant :
    (State.reset.Inv ∧ ∃ t, step State.reset = .next t) ∧
    (({ start with run := .halted, cond := .halted }).Inv ∧ ∃ t, step { start with run := .halted, cond := .halted } = .next t) :=
  ⟨⟨⟨by decide, by decide⟩, ⟨_, rfl⟩⟩, ⟨⟨by decide, by decide⟩, ⟨_, rfl⟩⟩⟩

/-- A JAM, an unstable opcode and a NOP at PC. -/
theorem test_wit_OnlyJamHalts :
    ({ start with mem := [(0x8000, 0x02)] }).nextInstr.mnemonic = .jam ∧ ({ start with mem := [(0x8000, 0x9B)] }).nextInstr.mnemonic = .shs ∧
    ({ start with mem := [(0x8000, 0xEA)] }).nextInstr.mnemonic = .nop ∧ start.run = .running ∧
    (next { start with mem := [(0x8000, 0x02)] }).run = .halted ∧ (next { start with mem := [(0x8000, 0x9B)] }).cond = .unstable 0x9B := by
  decide

/-- NOP is in none of the lists, and it answers a next state. -/
theorem test_wit_FlagsHaveTheirWriters :
    (∃ t, exec .nop start = .next t) ∧ Instr.nop.mnemonic ∉ znWriters ∧ Instr.nop.mnemonic ∉ cWriters ∧ Instr.nop.mnemonic ∉ vWriters ∧
    Instr.nop.mnemonic ∉ dWriters ∧ Instr.nop.mnemonic ∉ iWriters :=
  ⟨⟨_, rfl⟩, by decide⟩

theorem test_wit_StackPointerHasItsWriters : (∃ t, exec .nop start = .next t) ∧ Instr.nop.mnemonic ∉ spWriters :=
  ⟨⟨_, rfl⟩, by decide⟩

/-- A store of one byte, and an address it does not name. -/
theorem test_wit_MemoryChangesOnlyByBusWrites :
    ∃ t, exec (.sta (.abs 0x0200)) start = .next t ∧
      t.accesses = [.read 0x8000 0x00, .read 0x8001 0x00, .read 0x8002 0x00, .write 0x0200 0x00] :=
  ⟨_, rfl, by decide⟩

/-- A completed step and a signalled one. -/
theorem test_wit_ZeroCyclesExactlyWhenSignalled :
    (next { start with mem := [(0x8000, 0xEA)] }).cycles = 2 ∧ (next { start with mem := [(0x8000, 0x13)] }).cycles = 8 ∧
    (next { start with mem := [(0x8000, 0xF2)] }).cycles = 0 ∧ (next { start with mem := [(0x8000, 0xF2)] }).cond = .halted := by decide

theorem test_wit_DecimalAndInterruptFlagsInert :
    (Instr.adc (.imm 0x99)).mnemonic ∉ [Mnemonic.php, .brk, .plp, .rti, .cld, .sed, .cli, .sei] ∧
    ∃ t, exec (.adc (.imm 0x99)) start = .next t :=
  ⟨by decide, ⟨_, rfl⟩⟩

theorem test_wit_UnstableStepRepeats :
    let s := { start with mem := [(0x8000, 0x9B)] }
    s.run = .running ∧ s.devices = [] ∧ (next s).cond = .unstable 0x9B := by decide

theorem test_wit_ObservationPort : (Instr.sbcEb 0x01).wellFormed = true := by decide

theorem test_wit_PlacedWordRuns :
    start.mem.wf = true ∧ decodeTableWord 8 0xEA = some .nop ∧ decodeTableWord 24 0x123420 = some (.jsr 0x1234) := by decide

end Sys2Proof.Tests
end

section
/-! SUPPORT. What a step may change. Every instruction is a chain of operations each of which keeps the flags and the stack pointer unless
the mnemonic is among their writers (spec/10_state.md R11, R13), keeps the run state, and keeps memory canonical. `Ending` says once how
`exec` can end; the statements about flags, S, run state, condition and the invariant are read off from it. -/

namespace Sys2Proof.Machine

open Sys2Proof.Claim

/-! ### The frame of the flags (R13) -/

/-- From `f` to `g` only flags with the mnemonic in their list of writers change. -/
structure FlagsFrame (m : Mnemonic) (f g : Flags) : Prop where
  zn : m ∉ znWriters → g.n = f.n ∧ g.z = f.z
  c : m ∉ cWriters → g.c = f.c
  v : m ∉ vWriters → g.v = f.v
  d : m ∉ dWriters → g.d = f.d
  i : m ∉ iWriters → g.i = f.i

namespace FlagsFrame

variable {m : Mnemonic} {f g h : Flags}

theorem refl : FlagsFrame m f f := ⟨fun _ => ⟨rfl, rfl⟩, fun _ => rfl, fun _ => rfl, fun _ => rfl, fun _ => rfl⟩

theorem trans (hfg : FlagsFrame m f g) (hgh : FlagsFrame m g h) : FlagsFrame m f h where
  zn hm := ⟨(hgh.zn hm).1.trans (hfg.zn hm).1, (hgh.zn hm).2.trans (hfg.zn hm).2⟩
  c hm := (hgh.c hm).trans (hfg.c hm)
  v hm := (hgh.v hm).trans (hfg.v hm)
  d hm := (hgh.d hm).trans (hfg.d hm)
  i hm := (hgh.i hm).trans (hfg.i hm)

/-- `set_zn` (R17). -/
theorem setZn (v : Byte) (hzn : m ∈ znWriters := by decide) : FlagsFrame m f (f.setZn v) :=
  ⟨absurd hzn, fun _ => rfl, fun _ => rfl, fun _ => rfl, fun _ => rfl⟩

theorem setC (b : Bool) (hc : m ∈ cWriters := by decide) : FlagsFrame m f { f with c := b } :=
  ⟨fun _ => ⟨rfl, rfl⟩, absurd hc, fun _ => rfl, fun _ => rfl, fun _ => rfl⟩

theorem setV (b : Bool) (hv : m ∈ vWriters := by decide) : FlagsFrame m f { f with v := b } :=
  ⟨fun _ => ⟨rfl, rfl⟩, fun _ => rfl, absurd hv, fun _ => rfl, fun _ => rfl⟩

theorem setD (b : Bool) (hd : m ∈ dWriters := by decide) : FlagsFrame m f { f with d := b } :=
  ⟨fun _ => ⟨rfl, rfl⟩, fun _ => rfl, fun _ => rfl, absurd hd, fun _ => rfl⟩

theorem setI (b : Bool) (hi : m ∈ iWriters := by decide) : FlagsFrame m f { f with i := b } :=
  ⟨fun _ => ⟨rfl, rfl⟩, fun _ => rfl, fun _ => rfl, fun _ => rfl, absurd hi⟩

/-- `set_zn` and then C, as `cmp_core`, the shifts, ANC, ASR and SBX do (R141, R160 to R163, R228, R229, R231). -/
theorem setZnC (v : Byte) (b : Bool) (hzn : m ∈ znWriters := by decide) (hc : m ∈ cWriters := by decide) :
    FlagsFrame m f { f.setZn v with c := b } :=
  (setZn v hzn).trans (setC b hc)

/-- ARR's flags (R230). -/
theorem setZnCV (r : Byte) (c v : Bool) (hzn : m ∈ znWriters := by decide) (hc : m ∈ cWriters := by decide)
    (hv : m ∈ vWriters := by decide) : FlagsFrame m f { f.setZn r with c := c, v := v } :=
  (setZnC r c hzn hc).trans (setV v hv)

/-- The flags `adc_core` gives (R140). -/
theorem setAlu (u : AluResult) (hzn : m ∈ znWriters := by decide) (hc : m ∈ cWriters := by decide)
    (hv : m ∈ vWriters := by decide) : FlagsFrame m f (f.setAlu u) :=
  ⟨absurd hzn, absurd hc, absurd hv, fun _ => rfl, fun _ => rfl⟩

/-- BIT's flags (R150). -/
theorem bitFlags (a b : Byte) (hzn : m ∈ znWriters := by decide) (hv : m ∈ vWriters := by decide) :
    FlagsFrame m f (bitFlags a b f) :=
  ⟨absurd hzn, fun _ => rfl, absurd hv, fun _ => rfl, fun _ => rfl⟩

/-- A writer of all six flags, PLP or RTI, may leave any flags (R16). -/
theorem of_all (hzn : m ∈ znWriters := by decide) (hc : m ∈ cWriters := by decide) (hv : m ∈ vWriters := by decide)
    (hd : m ∈ dWriters := by decide) (hi : m ∈ iWriters := by decide) : FlagsFrame m f g :=
  ⟨absurd hzn, absurd hc, absurd hv, absurd hd, absurd hi⟩

end FlagsFrame

/-! ### The frame of the state -/

/-- From `s` to `t` only flags and S change that the mnemonic may write, the run state is kept, and memory stays canonical. The lemmas below
take the mnemonic's membership in a list of writers as an argument, which `decide` fills in for a given mnemonic. -/
structure Frame (m : Mnemonic) (s t : State) : Prop where
  flags : FlagsFrame m s.flags t.flags
  sp : m ∉ spWriters → t.sp = s.sp
  run : t.run = s.run
  wf : s.mem.wf = true → t.mem.wf = true

section

variable {m : Mnemonic} {s t u : State}

theorem Frame.trans (hst : Frame m s t) (htu : Frame m t u) : Frame m s u where
  flags := hst.flags.trans htu.flags
  sp hm := (htu.sp hm).trans (hst.sp hm)
  run := htu.run.trans hst.run
  wf hs := htu.wf (hst.wf hs)

/-- An operation on registers and flags: S, the run state and memory are as before. -/
theorem Frame.of_flags (hf : FlagsFrame m s.flags t.flags) (hsp : t.sp = s.sp := by rfl) (hrun : t.run = s.run := by rfl)
    (hmem : t.mem = s.mem := by rfl) : Frame m s t :=
  ⟨hf, fun _ => hsp, hrun, fun h => hmem ▸ h⟩

/-- An operation that keeps the flags too: the index registers, A, PC, the port's reads, what a step returns. -/
theorem Frame.of_eq (hf : t.flags = s.flags := by rfl) (hsp : t.sp = s.sp := by rfl) (hrun : t.run = s.run := by rfl)
    (hmem : t.mem = s.mem := by rfl) : Frame m s t :=
  .of_flags (hf ▸ .refl) hsp hrun hmem

/-- An operation of the stack engine's users that writes S but neither flags nor memory. -/
theorem Frame.of_sp (hm : m ∈ spWriters := by decide) (hf : t.flags = s.flags := by rfl) (hrun : t.run = s.run := by rfl)
    (hmem : t.mem = s.mem := by rfl) : Frame m s t :=
  ⟨hf ▸ .refl, absurd hm, hrun, fun h => hmem ▸ h⟩

/-! ### Fetches, the resolver and the port -/

theorem busWrite_frame (a : Addr) (v : Byte) : Frame m s (busWrite a v s) := ⟨.refl, fun _ => rfl, rfl, busWrite_wf a v⟩

theorem fetchOperand_frame (n : Nat) : Frame m s (fetchOperand n s) := by
  induction n generalizing s with
  | zero => exact .of_eq
  | succ n ih => exact Frame.trans .of_eq ih

/-- The resolver fetches the operand bytes and, for an indirect mode, reads the pointer. -/
theorem resolve_frame (a : MemArg) : Frame m s (resolve a s).st := by
  cases a with
  | zp z | zpx z | zpy z => exact fetchOperand_frame 1
  | abs w | abx w | aby w => exact fetchOperand_frame 2
  | izx z | izy z => exact (fetchOperand_frame 1).trans .of_eq

theorem load_frame (src : Src) : Frame m s (load src s).st := by
  cases src with
  | imm b => exact fetchOperand_frame 1
  | mem a => exact (resolve_frame a).trans .of_eq

theorem resolveJmp_frame (a : JmpArg) : Frame m s (resolveJmp a s).st := by
  cases a with
  | abs w => exact fetchOperand_frame 2
  | ind w => exact (fetchOperand_frame 2).trans .of_eq

/-- The opcode fetch and the resolver together, as every protocol for a memory operand begins. -/
theorem resolve_fetchOpcode_frame (a : MemArg) : Frame m s (resolve a (fetchOpcode s)).st :=
  Frame.trans .of_eq (resolve_frame a)

/-! ### The stack engine and the exception entry (R47 to R50, R203, R204) -/

theorem push8_frame (v : Byte) (hm : m ∈ spWriters := by decide) : Frame m s (push8 v s) := ⟨.refl, absurd hm, rfl, push8_wf v⟩

theorem push16_frame (w : Addr) (hm : m ∈ spWriters := by decide) : Frame m s (push16 w s) :=
  (push8_frame (hi w) hm).trans (push8_frame (lo w) hm)

theorem pull8_frame (hm : m ∈ spWriters := by decide) : Frame m s (pull8 s).st := .of_sp hm

theorem pull16_frame (hm : m ∈ spWriters := by decide) : Frame m s (pull16 s).st := (pull8_frame hm).trans (pull8_frame hm)

theorem takeException_frame (ret vector : Addr) (hm : m ∈ spWriters := by decide) (hi : m ∈ iWriters := by decide) :
    Frame m s (takeException ret vector s) := by
  let p := push8 (push16 ret s).flags.pushed (push16 ret s)
  have hpush : Frame m s p := (push16_frame ret hm).trans (push8_frame _ hm)
  have hset : Frame m p (p.setFlags { p.flags with i := true }) := .of_flags (.setI true hi)
  exact (hpush.trans hset).trans .of_eq

theorem returnFromSubroutine_frame (hm : m ∈ spWriters := by decide) : Frame m s (returnFromSubroutine s) := by
  have hpull : Frame m s (pull16 s).st := pull16_frame hm
  exact hpull.trans .of_eq

/-- The return pulls all six flags, so it is a frame for a writer of all six only. -/
theorem returnFromException_frame (hf : ∀ f g, FlagsFrame m f g) (hm : m ∈ spWriters := by decide) :
    Frame m s (returnFromException s) := by
  have hflags : Frame m s ((pull8 s).st.setFlags (Flags.unpack (pull8 s).val)) :=
    (pull8_frame hm).trans (.of_flags (hf _ _))
  exact (hflags.trans (pull16_frame hm)).trans .of_eq

/-! ### Bodies that several instructions share -/

theorem addToA_frame (b : Byte) (hzn : m ∈ znWriters := by decide) (hc : m ∈ cWriters := by decide)
    (hv : m ∈ vWriters := by decide) : Frame m s (addToA b s) :=
  .of_flags (.setAlu _ hzn hc hv)

theorem compare_frame (r b : Byte) (hzn : m ∈ znWriters := by decide) (hc : m ∈ cWriters := by decide) :
    Frame m s (compare r b s) :=
  .of_flags (.setZnC _ _ hzn hc)

/-- A first half by its flags, and a second half that starts from the state it leaves (R220 to R225). -/
theorem fusedBody_frame {f : Byte → Flags → Byte × Flags} {g : Byte → State → State} (hf : ∀ b k, FlagsFrame m k (f b k).2)
    (hg : ∀ b w, Frame m w (g b w)) (b : Byte) (s : State) : Frame m s (fusedBody f g b s).st :=
  Frame.trans (.of_flags (hf b s.flags)) (hg _ _)

end

/-! ### How an instruction ends -/

/-- The mnemonics screened as unstable (R83, R239 to R242). -/
def unstableMnemonics : List Mnemonic := [.sha, .shs, .shx, .shy]

/-- The three ways an instruction ends (R80, R83): it completes within its frame, or it is screened and signals. -/
inductive Ending (m : Mnemonic) (s t : State) : Prop where
  | completed (hj : m ≠ .jam) (hu : m ∉ unstableMnemonics) (hc : t.cond = .none) (hf : Frame m s t)
  | unstable (hj : m ≠ .jam) (hu : m ∈ unstableMnemonics) (op : Byte) (ht : t = signalUnstable op s)
  | halted (hj : m = .jam) (hu : m ∉ unstableMnemonics) (ht : t = signalHalted s)

section

variable {m : Mnemonic} {i : Instr} {s t : State}

theorem runRead_ending {src : Src} {f : Byte → State → State} (h : runRead i src f s = .next t)
    (hf : ∀ b u, Frame m u (f b u)) (hj : m ≠ .jam := by decide) (hu : m ∉ unstableMnemonics := by decide) : Ending m s t := by
  cases h
  have hload : Frame m s (load src (fetchOpcode s)).st := Frame.trans .of_eq (load_frame src)
  exact .completed hj hu rfl ((hload.trans (hf _ _)).trans .of_eq)

theorem runWrite_ending {a : MemArg} {v : State → Byte} (h : runWrite i a v s = .next t) (hj : m ≠ .jam := by decide)
    (hu : m ∉ unstableMnemonics := by decide) : Ending m s t := by
  cases h
  exact .completed hj hu rfl (((resolve_fetchOpcode_frame a).trans (busWrite_frame _ _)).trans .of_eq)

theorem runRmw_ending {a : MemArg} {f : Byte → State → Got} (h : runRmw i a f s = .next t)
    (hf : ∀ b u, Frame m u (f b u).st) (hj : m ≠ .jam := by decide) (hu : m ∉ unstableMnemonics := by decide) :
    Ending m s t := by
  cases h
  have hread : Frame m s (busRead (resolve a (fetchOpcode s)).ea (resolve a (fetchOpcode s)).st).st :=
    (resolve_fetchOpcode_frame a).trans .of_eq
  exact .completed hj hu rfl ((((hread.trans (busWrite_frame _ _)).trans (hf _ _)).trans (busWrite_frame _ _)).trans .of_eq)

theorem runAcc_ending {f : Byte → State → Got} (h : runAcc i f s = .next t) (hf : ∀ b u, Frame m u (f b u).st)
    (hj : m ≠ .jam := by decide) (hu : m ∉ unstableMnemonics := by decide) : Ending m s t := by
  cases h
  have hbody : Frame m s (f (fetchOpcode s).a (fetchOpcode s)).st := Frame.trans .of_eq (hf _ _)
  exact .completed hj hu rfl (hbody.trans .of_eq)

/-- A shift on A or on memory, by the flags it leaves (R160 to R163). -/
theorem runShift_ending {dst : Dst} {f : Byte → Flags → Byte × Flags} (h : runShift i dst (shiftBody f) s = .next t)
    (hf : ∀ b k, FlagsFrame m k (f b k).2) (hj : m ≠ .jam := by decide) (hu : m ∉ unstableMnemonics := by decide) :
    Ending m s t := by
  cases dst with
  | acc => exact runAcc_ending h (fun b u => .of_flags (hf b u.flags)) hj hu
  | mem a => exact runRmw_ending h (fun b u => .of_flags (hf b u.flags)) hj hu

theorem runImplied_ending {f : State → State} (h : runImplied i f s = .next t) (hf : ∀ u, Frame m u (f u))
    (hj : m ≠ .jam := by decide) (hu : m ∉ unstableMnemonics := by decide) : Ending m s t := by
  cases h
  have hbody : Frame m s (f (fetchOpcode s)) := Frame.trans .of_eq (hf _)
  exact .completed hj hu rfl (hbody.trans .of_eq)

theorem runBranch_ending {cond : Flags → Bool} {d : Byte} (h : runBranch i cond d s = .next t)
    (hj : m ≠ .jam := by decide) (hu : m ∉ unstableMnemonics := by decide) : Ending m s t := by
  rw [runBranch_eq] at h
  cases h
  exact .completed hj hu rfl .of_eq

end

/-- How each instruction ends. -/
theorem exec_ending {i : Instr} {s t : State} (h : exec i s = .next t) : Ending i.mnemonic s t := by
  cases i
  all_goals dsimp only [Instr.mnemonic, exec] at h ⊢
  -- registers and set_zn
  case lda src | ldx src | ldy src | and src | ora src | eor src | lax a | ane b | lxa b =>
    exact runRead_ending h fun _ _ => .of_flags (.setZn _)
  case tax | tay | txa | tya | tsx | inx | iny | dex | dey =>
    exact runImplied_ending h fun _ => .of_flags (.setZn _)
  -- stores
  case sta a | stx a | sty a | sax a => exact runWrite_ending h
  -- arithmetic, compares and the immediate combinations
  case adc src | sbc src | sbcEb b => exact runRead_ending h fun _ _ => addToA_frame _
  case cmp src | cpx src | cpy src => exact runRead_ending h fun _ _ => compare_frame _ _
  case bit a => exact runRead_ending h fun _ _ => .of_flags (.bitFlags _ _)
  case anc code b | asr b | sbx b => exact runRead_ending h fun _ _ => .of_flags (.setZnC _ _)
  case arr b => exact runRead_ending h fun _ _ => .of_flags (.setZnCV _ _ _)
  -- shifts, increments and the fused opcodes
  case asl dst | lsr dst | rol dst | ror dst => exact runShift_ending h fun _ _ => .setZnC _ _
  case inc a | dec a => exact runRmw_ending h fun _ _ => .of_flags (.setZn _)
  case slo a | rla a | sre a =>
    exact runRmw_ending h (fusedBody_frame (fun _ _ => .setZnC _ _) fun _ _ => .of_flags (.setZn _))
  case rra a =>
    exact runRmw_ending h (fusedBody_frame (fun _ _ => .setZnC _ _) fun _ _ => addToA_frame _)
  case dcp a =>
    exact runRmw_ending h (fusedBody_frame (fun _ _ => .setZn _) fun _ _ => compare_frame _ _)
  case isb a =>
    exact runRmw_ending h (fusedBody_frame (fun _ _ => .setZn _) fun _ _ => addToA_frame _)
  -- one flag
  case clc | sec => exact runImplied_ending h fun _ => .of_flags (.setC _)
  case clv => exact runImplied_ending h fun _ => .of_flags (.setV _)
  case cld | sed => exact runImplied_ending h fun _ => .of_flags (.setD _)
  case cli | sei => exact runImplied_ending h fun _ => .of_flags (.setI _)
  -- the stack engine, TXS and LAS
  case pha | php => exact runImplied_ending h fun _ => push8_frame _
  case pla => exact runImplied_ending h fun _ => Frame.trans pull8_frame (.of_flags (.setZn _))
  case plp => exact runImplied_ending h fun _ => Frame.trans pull8_frame (.of_flags .of_all)
  case txs => exact runImplied_ending h fun _ => .of_sp
  case las w => exact runRead_ending h fun _ _ => Frame.trans .of_sp (.of_flags (.setZn _))
  -- jumps, subroutines, BRK and RTI
  case jmp a =>
    cases h
    have hjump : Frame .jmp s (resolveJmp a (fetchOpcode s)).st := Frame.trans .of_eq (resolveJmp_frame a)
    exact .completed (by decide) (by decide) rfl (hjump.trans .of_eq)
  case jsr w =>
    cases h
    let u := fetchOperand 2 (fetchOpcode s)
    have hfetch : Frame .jsr s u := Frame.trans .of_eq (fetchOperand_frame 2)
    have hpush : Frame .jsr u (push16 (u.pc - 1) u) := push16_frame _
    exact .completed (by decide) (by decide) rfl ((hfetch.trans hpush).trans .of_eq)
  case rts => exact runImplied_ending h fun _ => returnFromSubroutine_frame
  case brk => exact runImplied_ending h fun _ => takeException_frame _ _
  case rti => exact runImplied_ending h fun _ => returnFromException_frame fun _ _ => .of_all
  -- branches
  case bpl d | bmi d | bvc d | bvs d | bcc d | bcs d | bne d | beq d => exact runBranch_ending h
  -- NOPs
  case nop | nopImp code => exact runImplied_ending h fun _ => .of_eq
  case nopDop code src | nopTop code a => exact runRead_ending h fun _ _ => .of_eq
  -- the screened opcodes
  case sha a | shs w | shx w | shy w =>
    cases h
    exact .unstable (by decide) (by decide) _ rfl
  case jam code =>
    cases h
    exact .halted rfl (by decide) rfl

/-- What a step can do (R80): nothing but report Halted again, or run the instruction at PC. -/
theorem step_cases {s t : State} (h : step s = .next t) :
    (s.run = .halted ∧ t = haltedStep s) ∨ (s.run = .running ∧ Ending s.nextInstr.mnemonic s t) := by
  cases hr : s.run with
  | halted =>
    simp only [step, hr, Host.Outcome.next.injEq] at h
    exact .inl ⟨rfl, h.symm⟩
  | running =>
    rw [step_running hr] at h
    exact .inr ⟨rfl, exec_ending h⟩

/-- Settles O43: a screened or halted step has the condition of its run state, and a completed one keeps Running. -/
theorem stepKeepsInvariant : Obligations.StepKeepsInvariant := by
  intro s t ⟨hwf, _⟩ h
  rcases step_cases h with ⟨hr, rfl⟩ | ⟨hr, hend⟩
  · exact ⟨hwf, by simp [State.condAgrees, haltedStep, hr]⟩
  · cases hend with
    | completed _ _ hc hf => exact ⟨hf.wf hwf, by simp [State.condAgrees, hc, hf.run, hr]⟩
    | unstable _ _ op ht => subst ht; exact ⟨hwf, by simp [State.condAgrees, signalUnstable_eq, hr]⟩
    | halted _ _ ht => subst ht; exact ⟨hwf, by simp [State.condAgrees, signalHalted_eq]⟩

/-- Settles O46: each ending has its own condition, and only JAM's leaves Running. -/
theorem onlyJamHalts : Obligations.OnlyJamHalts := by
  intro s t hr h
  rw [step_running hr] at h
  cases exec_ending h with
  | completed hj hu hc hf => simpa [hc, hf.run, hr, hj, unstableMnemonics] using hu
  | unstable hj hu op ht => subst ht; simpa [signalUnstable_eq, hr, hj, unstableMnemonics] using hu
  | halted hj hu ht => subst ht; simp [signalHalted_eq, hj]

/-- Settles O47: a completed instruction is within its frame, and a signal leaves the flags alone. -/
theorem flagsHaveTheirWriters : Obligations.FlagsHaveTheirWriters := by
  intro i s t h
  have hflags : FlagsFrame i.mnemonic s.flags t.flags := by
    cases exec_ending h with
    | completed _ _ _ hf => exact hf.flags
    | unstable _ _ op ht => exact ht ▸ .refl
    | halted _ _ ht => exact ht ▸ .refl
  exact ⟨hflags.zn, hflags.c, hflags.v, hflags.d, hflags.i⟩

/-- Settles O48: a completed instruction is within its frame, and a signal leaves S alone. -/
theorem stackPointerHasItsWriters : Obligations.StackPointerHasItsWriters := by
  intro i s t h hm
  cases exec_ending h with
  | completed _ _ _ hf => exact hf.sp hm
  | unstable _ _ op ht => exact ht ▸ rfl
  | halted _ _ ht => exact ht ▸ rfl

end Sys2Proof.Machine
end

section
/-! SUPPORT. Flags D and I are read by PHP and BRK only (spec/10_state.md R13, spec/43_arith_logic.md R151): every other operation run from a
state with D and I replaced makes the same accesses and ends in the same state with D and I replaced. -/

namespace Sys2Proof.Machine

open Sys2Proof.Claim

section

variable {i : Instr} {d0 i0 : Bool} {s t : State}

/-! ### The port, the resolver and the operand -/

@[simp] theorem busRead_withDI (a : Addr) (s : State) :
    busRead a (withDI d0 i0 s) = ⟨(busRead a s).val, withDI d0 i0 (busRead a s).st⟩ := rfl

@[simp] theorem busWrite_withDI (a : Addr) (v : Byte) (s : State) :
    busWrite a v (withDI d0 i0 s) = withDI d0 i0 (busWrite a v s) := rfl

@[simp] theorem finish_withDI (c : Nat) (s : State) : (withDI d0 i0 s).finish c = withDI d0 i0 (s.finish c) := rfl

@[simp] theorem fetchOpcode_withDI (s : State) : fetchOpcode (withDI d0 i0 s) = withDI d0 i0 (fetchOpcode s) := rfl

@[simp] theorem fetchOperand_withDI (n : Nat) (s : State) :
    fetchOperand n (withDI d0 i0 s) = withDI d0 i0 (fetchOperand n s) := by
  induction n generalizing s with
  | zero => rfl
  | succ n ih => exact ih (fetch8 s).st

@[simp] theorem resolve_withDI (m : MemArg) (s : State) :
    resolve m (withDI d0 i0 s) = ⟨(resolve m s).ea, (resolve m s).crossed, withDI d0 i0 (resolve m s).st⟩ := by
  cases m <;> rfl

@[simp] theorem load_withDI (src : Src) (s : State) :
    load src (withDI d0 i0 s) = ⟨(load src s).val, (load src s).crossed, withDI d0 i0 (load src s).st⟩ := by
  cases src <;> simp [load]

@[simp] theorem resolveJmp_withDI (a : JmpArg) (s : State) :
    resolveJmp a (withDI d0 i0 s) = ⟨(resolveJmp a s).val, withDI d0 i0 (resolveJmp a s).st⟩ := by
  cases a <;> rfl

/-! ### The protocols: inert if the body is -/

theorem runRead_withDI {src : Src} {f : Byte → State → State} (h : runRead i src f s = .next t)
    (hf : ∀ b u, f b (withDI d0 i0 u) = withDI d0 i0 (f b u)) :
    runRead i src f (withDI d0 i0 s) = .next (withDI d0 i0 t) := by
  cases h
  simp [runRead, hf]

theorem runWrite_withDI {a : MemArg} {v : State → Byte} (h : runWrite i a v s = .next t)
    (hv : ∀ u, v (withDI d0 i0 u) = v u) : runWrite i a v (withDI d0 i0 s) = .next (withDI d0 i0 t) := by
  cases h
  simp [runWrite, hv]

theorem runRmw_withDI {a : MemArg} {f : Byte → State → Got} (h : runRmw i a f s = .next t)
    (hf : ∀ b u, f b (withDI d0 i0 u) = ⟨(f b u).val, withDI d0 i0 (f b u).st⟩) :
    runRmw i a f (withDI d0 i0 s) = .next (withDI d0 i0 t) := by
  cases h
  simp [runRmw, hf]

theorem runAcc_withDI {f : Byte → State → Got} (h : runAcc i f s = .next t)
    (hf : ∀ b u, f b (withDI d0 i0 u) = ⟨(f b u).val, withDI d0 i0 (f b u).st⟩) :
    runAcc i f (withDI d0 i0 s) = .next (withDI d0 i0 t) := by
  cases h
  simp only [runAcc, fetchOpcode_withDI, hf]
  rfl

theorem runShift_withDI {dst : Dst} {f : Byte → State → Got} (h : runShift i dst f s = .next t)
    (hf : ∀ b u, f b (withDI d0 i0 u) = ⟨(f b u).val, withDI d0 i0 (f b u).st⟩) :
    runShift i dst f (withDI d0 i0 s) = .next (withDI d0 i0 t) := by
  cases dst with
  | acc => exact runAcc_withDI h hf
  | mem a => exact runRmw_withDI h hf

theorem runImplied_withDI {f : State → State} (h : runImplied i f s = .next t)
    (hf : ∀ u, f (withDI d0 i0 u) = withDI d0 i0 (f u)) : runImplied i f (withDI d0 i0 s) = .next (withDI d0 i0 t) := by
  cases h
  simp [runImplied, hf]

theorem runBranch_withDI {cond : Flags → Bool} {d : Byte} (h : runBranch i cond d s = .next t)
    (hc : ∀ f : Flags, cond { f with d := d0, i := i0 } = cond f) :
    runBranch i cond d (withDI d0 i0 s) = .next (withDI d0 i0 t) := by
  rw [runBranch_eq] at h ⊢
  cases h
  simp only [withDI, hc]
  rfl

end

/-- The instructions that push or write D or I. -/
def diUsers : List Mnemonic := [.php, .brk, .plp, .rti, .cld, .sed, .cli, .sei]

/-- Setting D and I first or last is the same for an instruction that neither pushes nor writes them. -/
theorem exec_withDI {i : Instr} {s t : State} (d0 i0 : Bool) (hm : i.mnemonic ∉ diUsers) (h : exec i s = .next t) :
    exec i (withDI d0 i0 s) = .next (withDI d0 i0 t) := by
  cases i
  all_goals dsimp only [Instr.mnemonic, exec] at hm h ⊢
  case php | brk | plp | rti | cld | sed | cli | sei => exact absurd (by decide) hm
  case lda src | ldx src | ldy src | adc src | sbc src | and src | ora src | eor src | cmp src | cpx src | cpy src | bit a |
      lax a | anc code b | asr b | arr b | sbx b | las w | ane b | lxa b | sbcEb b | nopDop code src | nopTop code a =>
    exact runRead_withDI h fun _ _ => rfl
  case sta a | stx a | sty a | sax a => exact runWrite_withDI h fun _ => rfl
  case asl dst | lsr dst | rol dst | ror dst => exact runShift_withDI h fun _ _ => rfl
  case inc a | dec a | slo a | rla a | sre a | rra a | dcp a | isb a => exact runRmw_withDI h fun _ _ => rfl
  case tax | tay | txa | tya | tsx | txs | inx | iny | dex | dey | pha | pla | clc | sec | clv | nop | rts | nopImp code =>
    exact runImplied_withDI h fun _ => rfl
  case bpl d | bmi d | bvc d | bvs d | bcc d | bcs d | bne d | beq d => exact runBranch_withDI h fun _ => rfl
  case jmp a =>
    cases h
    simp only [execJmp, fetchOpcode_withDI, resolveJmp_withDI]
    rfl
  case jsr w | sha a | shs w | shx w | shy w | jam code =>
    cases h
    rfl

/-- Settles O51: every protocol and body, except of the users of D and I, commutes with setting the two flags. -/
theorem decimalAndInterruptFlagsInert : Obligations.DecimalAndInterruptFlagsInert :=
  fun _ _ _ d0 i0 hm h => exec_withDI d0 i0 hm h

end Sys2Proof.Machine
end

section
/-! SUPPORT. The status byte bit by bit (spec/10_state.md R14 to R18). -/

namespace Sys2Proof.Machine

/-- A flag placed at bit `i` shows there and nowhere else. -/
@[simp] theorem flagBit_getElem (b : Bool) {i j : Nat} (hj : j < 8) : (flagBit b i)[j] = (decide (i = j) && b) := by
  cases b with
  | false => simp [flagBit]
  | true =>
    have hbit : ¬j < i ∧ j - i = 0 ↔ i = j := by omega
    rw [Bool.eq_iff_iff]
    simpa [flagBit] using hbit

/-- `pack()` bit by bit: N V 1 0 D I Z C (R15). -/
theorem Flags.pack_bits (f : Flags) :
    f.pack.getLsbD 7 = f.n ∧ f.pack.getLsbD 6 = f.v ∧ f.pack.getLsbD 5 = true ∧ f.pack.getLsbD 4 = false ∧
    f.pack.getLsbD 3 = f.d ∧ f.pack.getLsbD 2 = f.i ∧ f.pack.getLsbD 1 = f.z ∧ f.pack.getLsbD 0 = f.c := by
  simp [Flags.pack]

/-- Bit 4 of `pack()` is free, so the push of PHP and BRK adds it (R14). -/
theorem Flags.pushed_eq_add (f : Flags) : f.pushed = f.pack + 0x10 := by
  have hfree : f.pack &&& 0x10 = 0 := by
    obtain ⟨-, -, -, h4, -⟩ := f.pack_bits
    rw [show (0x10 : Byte) = BitVec.twoPow 8 4 from rfl, BitVec.and_twoPow, h4]
    rfl
  exact (BitVec.add_eq_or_of_and_eq_zero _ _ hfree).symm

/-- `unpack` undoes `pack` (R18). -/
theorem Flags.unpack_pack (f : Flags) : Flags.unpack f.pack = f := by
  obtain ⟨hn, hv, -, -, hd, hi, hz, hc⟩ := f.pack_bits
  simp only [Flags.unpack, hn, hv, hd, hi, hz, hc]

/-- `pack` after `unpack`: bit 5 forced, bit 4 dropped (R18). -/
theorem Flags.pack_unpack (b : Byte) : (Flags.unpack b).pack = (b &&& 0xCF) ||| 0x20 := by
  obtain ⟨hn, hv, h5, h4, hd, hi, hz, hc⟩ := (Flags.unpack b).pack_bits
  refine BitVec.eq_of_getLsbD_eq fun j hj => ?_
  interval_cases j <;> simp only [*] <;> simp [Flags.unpack]

/-- `unpack` looks at bits 7, 6, 3, 2, 1, 0 only (R16). -/
theorem Flags.unpack_congr {b b' : Byte} (h : ∀ j ∈ [7, 6, 3, 2, 1, 0], b.getLsbD j = b'.getLsbD j) :
    Flags.unpack b = Flags.unpack b' := by
  simp_all [Flags.unpack]

/-- Settles O1, bit by bit. -/
theorem statusByteLayout : Obligations.StatusByteLayout := fun f => ⟨f.pack_bits, f.pushed_eq_add⟩

/-- Settles O2: both directions from the bits of `pack()`, and `unpack` reads the six flag bits only. -/
theorem statusRoundTrip : Obligations.StatusRoundTrip :=
  ⟨Flags.unpack_pack, Flags.pack_unpack, fun b => ⟨Flags.unpack_congr (by simp), Flags.unpack_congr (by simp)⟩⟩

end Sys2Proof.Machine
end

section
/-! SUPPORT. The per-instruction facts of Laws/PerInstr.lean for every instruction at once, and the observation port (spec/10_state.md R22). -/

namespace Sys2Proof.Laws.Encodable

/-- The encoder agrees with the dispatch table on every instruction (R60, R61, R65). -/
theorem every : (i : Instr) → Statement i
  | .lda src => lda src
  | .ldx src => ldx src
  | .ldy src => ldy src
  | .sta m => sta m
  | .stx m => stx m
  | .sty m => sty m
  | .tax => tax
  | .tay => tay
  | .txa => txa
  | .tya => tya
  | .tsx => tsx
  | .txs => txs
  | .adc src => adc src
  | .sbc src => sbc src
  | .and src => and src
  | .ora src => ora src
  | .eor src => eor src
  | .cmp src => cmp src
  | .cpx src => cpx src
  | .cpy src => cpy src
  | .bit m => bit m
  | .asl dst => asl dst
  | .lsr dst => lsr dst
  | .rol dst => rol dst
  | .ror dst => ror dst
  | .inc m => inc m
  | .dec m => dec m
  | .inx => inx
  | .iny => iny
  | .dex => dex
  | .dey => dey
  | .pha => pha
  | .pla => pla
  | .php => php
  | .plp => plp
  | .clc => clc
  | .sec => sec
  | .cli => cli
  | .sei => sei
  | .cld => cld
  | .sed => sed
  | .clv => clv
  | .nop => nop
  | .jmp t => jmp t
  | .jsr w => jsr w
  | .rts => rts
  | .brk => brk
  | .rti => rti
  | .bpl d => bpl d
  | .bmi d => bmi d
  | .bvc d => bvc d
  | .bvs d => bvs d
  | .bcc d => bcc d
  | .bcs d => bcs d
  | .bne d => bne d
  | .beq d => beq d
  | .slo m => slo m
  | .rla m => rla m
  | .sre m => sre m
  | .rra m => rra m
  | .dcp m => dcp m
  | .isb m => isb m
  | .lax m => lax m
  | .sax m => sax m
  | .anc code b => anc code b
  | .asr b => asr b
  | .arr b => arr b
  | .sbx b => sbx b
  | .las w => las w
  | .ane b => ane b
  | .lxa b => lxa b
  | .sbcEb b => sbcEb b
  | .nopImp code => nopImp code
  | .nopDop code src => nopDop code src
  | .nopTop code m => nopTop code m
  | .sha m => sha m
  | .shs w => shs w
  | .shx w => shx w
  | .shy w => shy w
  | .jam code => jam code

end Sys2Proof.Laws.Encodable

namespace Sys2Proof.Machine

/-- The host's mnemonic of an instruction's opcode byte is the instruction's (R68). -/
theorem mnemonicOf_opcode {i : Instr} (hw : i.wellFormed = true) : mnemonicOf i.opcode = i.mnemonic.text := by
  obtain ⟨-, hmnemonic, -⟩ := Laws.Encodable.every i hw
  exact congrArg Mnemonic.text hmnemonic

/-- Settles O53: the mnemonic through the agreement of encoder and dispatch table. -/
theorem observationPort : Obligations.ObservationPort := ⟨fun _ => rfl, fun _ => mnemonicOf_opcode⟩

end Sys2Proof.Machine
end

section
/-! SUPPORT. What a read returns after writes and pushes to plain memory (spec/20_memory.md R41, R47 to R50, R57). -/

namespace Sys2Proof.Machine

/-! ### Plain memory through the port -/

/-- A read of an address that is no device returns the byte of plain memory there. -/
theorem State.busValue_plain {s : State} {a : Addr} (hd : s.isDevice a = false) (k : Nat) :
    s.busValue k a = s.mem.read a.toNat := by
  simp [State.busValue, hd]

/-- A write changes no other byte of plain memory. -/
theorem busWrite_mem_read_ne {a b : Addr} (v : Byte) (s : State) (h : b ≠ a) :
    (busWrite a v s).mem.read b.toNat = s.mem.read b.toNat := by
  rw [busWrite_mem]
  split
  · rfl
  · exact Memory.read_write_ne v fun e => h (BitVec.eq_of_toNat_eq e)

/-- Settles O6, through the laws of plain memory. -/
theorem busReadAfterWrite : Obligations.BusReadAfterWrite :=
  fun s a v hw hd => ⟨State.busValue_busWrite_same hw hd, busWrite_wf a v hw, fun _ h => busWrite_mem_read_ne v s h⟩

/-! ### A pull after a push (R47, R48) -/

/-- The byte pushed to a plain slot is the byte a read of the slot returns. -/
theorem State.busValue_push8_same {s : State} {v : Byte} (hw : s.mem.wf = true) (hd : s.isDevice (stackAddr s.sp) = false)
    (k : Nat) : (push8 v s).busValue k (stackAddr s.sp) = v := by
  rw [push8, State.busValue_setSp]
  exact State.busValue_busWrite_same hw hd

/-- A push leaves every other slot as it was. -/
theorem State.busValue_push8_ne {s : State} {v p : Byte} (h : p ≠ s.sp) (k : Nat) :
    (push8 v s).busValue k (stackAddr p) = s.busValue (1 + k) (stackAddr p) := by
  rw [push8, State.busValue_setSp]
  exact State.busValue_busWrite_ne fun e => h (stackAddr_inj.mp e)

/-- S after a push and a pull, both modulo 256. -/
theorem push8_sp_add_one (s : State) (v : Byte) : (push8 v s).sp + 1 = s.sp := BitVec.sub_add_cancel _ _

/-- Settles O7: the closed forms of `Push8` and `Pull8`, and the pull's slot is the one just pushed. -/
theorem stackPushAndPull : Obligations.StackPushAndPull := by
  intro s v
  have hslot := stackAddr_toNat s.sp
  have hbyte := s.sp.isLt
  refine ⟨push8_eq v s, rfl, rfl, by omega, push8_sp_add_one s v, ?_, ?_⟩
  · rw [pull8_st_accesses, pull8_val, push8_sp_add_one, push8_accesses, List.append_assoc]
    rfl
  · intro hw hd
    rw [pull8_val, push8_sp_add_one]
    exact State.busValue_push8_same hw hd 0

/-! ### A word on the stack (R49, R50) -/

/-- The two bytes of a word make the word (R6, R43). -/
theorem word_hi_lo (w : Addr) : word (hi w) (lo w) = w :=
  (BitVec.extractLsb'_append_extractLsb'_eq_extractLsb' (start₁ := 0) (len₁ := 8) (len₂ := 8) rfl).trans
    BitVec.extractLsb'_eq_self

section

variable {s : State} {w : Addr} (hw : s.mem.wf = true)

include hw

/-- `Push16` leaves the low byte in the lower slot. -/
theorem State.busValue_push16_lo (hd : s.isDevice (stackAddr (s.sp - 1)) = false) (k : Nat) :
    (push16 w s).busValue k (stackAddr (s.sp - 1)) = lo w :=
  State.busValue_push8_same (s := push8 (hi w) s) (push8_wf (hi w) hw) hd k

/-- `Push16` leaves the high byte in the upper slot: the push of the low byte is to another slot. -/
theorem State.busValue_push16_hi (hd : s.isDevice (stackAddr s.sp) = false) (k : Nat) :
    (push16 w s).busValue k (stackAddr s.sp) = hi w := by
  have hne : s.sp ≠ (push8 (hi w) s).sp := by
    rw [push8_sp]
    bv_omega
  rw [push16, State.busValue_push8_ne hne]
  exact State.busValue_push8_same hw hd (1 + k)

end

/-- Settles O8: both slots read back what was pushed, and the pull's slots are those two. -/
theorem stackWordRoundTrip : Obligations.StackWordRoundTrip := by
  intro s w hw hhi hlo
  have hsp : (push16 w s).sp = s.sp - 2 := by rw [push16_eq]
  have hlower : (push16 w s).sp + 1 = s.sp - 1 := by rw [hsp]; bv_omega
  have hupper : (push16 w s).sp + 2 = s.sp := by rw [hsp]; bv_omega
  refine ⟨?_, ?_, hsp, ?_, ?_⟩
  · rw [← State.busValue_plain (s := push16 w s) hhi 0, State.busValue_push16_hi hw hhi]
  · rw [← State.busValue_plain (s := push16 w s) hlo 0, State.busValue_push16_lo hw hlo]
  · rw [pull16_eq, hupper, hlower, State.busValue_push16_hi hw hhi, State.busValue_push16_lo hw hlo, word_hi_lo]
  · rw [pull16_eq, hupper]

end Sys2Proof.Machine
end

section
/-! SUPPORT. The bus log of a step: every operation only appends to the access list, counts what it appends, and changes no byte of plain
memory that no write of the list names (spec/20_memory.md R41, R51). -/

namespace Sys2Proof.Machine

/-! ### The frame of the bus -/

/-- From `s` to `t` accesses are appended and counted, and a byte of plain memory changes only if a write in `t`'s list names it. -/
structure Logged (s t : State) : Prop where
  extends_accesses : s.accesses <+: t.accesses
  count : t.busCount + s.accesses.length = s.busCount + t.accesses.length
  mem : ∀ a : Addr, (∀ v, Access.write a v ∉ t.accesses) → t.mem.read a.toNat = s.mem.read a.toNat

section

variable {s t u : State}

theorem Logged.trans (hst : Logged s t) (htu : Logged t u) : Logged s u where
  extends_accesses := hst.extends_accesses.trans htu.extends_accesses
  count := by
    have hcount := hst.count
    have hcount' := htu.count
    omega
  mem a ha := by
    have ha' : ∀ v, Access.write a v ∉ t.accesses := fun v hv => ha v (htu.extends_accesses.mem hv)
    exact (htu.mem a ha).trans (hst.mem a ha')

/-- An operation off the bus: registers, flags, PC, the run state, cycles, condition. -/
theorem Logged.of_eq (hacc : t.accesses = s.accesses := by rfl) (hcount : t.busCount = s.busCount := by rfl)
    (hmem : t.mem = s.mem := by rfl) : Logged s t :=
  ⟨hacc ▸ List.prefix_rfl, by rw [hacc, hcount], fun _ _ => by rw [hmem]⟩

/-! ### The port, the fetches and the resolver -/

theorem busRead_logged (a : Addr) : Logged s (busRead a s).st where
  extends_accesses := List.prefix_append _ _
  count := by simp only [busRead_st_busCount, busRead_st_accesses, List.length_append, List.length_singleton]; omega
  mem _ _ := rfl

/-- The write names the one byte it changes. -/
theorem busWrite_logged (a : Addr) (v : Byte) : Logged s (busWrite a v s) where
  extends_accesses := List.prefix_append _ _
  count := by simp only [busWrite_busCount, busWrite_accesses, List.length_append, List.length_singleton]; omega
  mem b hb := by
    have hne : b ≠ a := by
      rintro rfl
      exact hb v (by simp)
    exact busWrite_mem_read_ne v s hne

theorem fetch8_logged : Logged s (fetch8 s).st := (busRead_logged s.pc).trans .of_eq

theorem fetchOperand_logged (n : Nat) : Logged s (fetchOperand n s) := by
  induction n generalizing s with
  | zero => exact .of_eq
  | succ n ih => exact fetch8_logged.trans ih

theorem readWord_logged (a b : Addr) : Logged s (readWord a b s).st := (busRead_logged a).trans (busRead_logged b)

theorem resolve_logged (m : MemArg) : Logged s (resolve m s).st := by
  cases m with
  | zp z | zpx z | zpy z => exact fetchOperand_logged 1
  | abs w | abx w | aby w => exact fetchOperand_logged 2
  | izx z | izy z => exact (fetchOperand_logged 1).trans (readWord_logged _ _)

theorem load_logged (src : Src) : Logged s (load src s).st := by
  cases src with
  | imm b => exact fetchOperand_logged 1
  | mem m => exact (resolve_logged m).trans (busRead_logged _)

theorem resolveJmp_logged (a : JmpArg) : Logged s (resolveJmp a s).st := by
  cases a with
  | abs w => exact fetchOperand_logged 2
  | ind w => exact (fetchOperand_logged 2).trans (readWord_logged _ _)

/-! ### The stack engine and its users (R47 to R50, R202 to R204) -/

theorem push8_logged (v : Byte) : Logged s (push8 v s) := (busWrite_logged _ v).trans .of_eq

theorem pull8_logged : Logged s (pull8 s).st := Logged.trans .of_eq (busRead_logged _)

theorem push16_logged (w : Addr) : Logged s (push16 w s) := (push8_logged (hi w)).trans (push8_logged (lo w))

theorem pull16_logged : Logged s (pull16 s).st := pull8_logged.trans pull8_logged

theorem returnFromSubroutine_logged : Logged s (returnFromSubroutine s) := Logged.trans pull16_logged .of_eq

theorem takeException_logged (ret vector : Addr) : Logged s (takeException ret vector s) := by
  let p := push8 (push16 ret s).flags.pushed (push16 ret s)
  have hpush : Logged s p := (push16_logged ret).trans (push8_logged _)
  have hset : Logged p (p.setFlags { p.flags with i := true }) := .of_eq
  exact ((hpush.trans hset).trans (readWord_logged vector (vector + 1))).trans .of_eq

theorem returnFromException_logged : Logged s (returnFromException s) := by
  have hflags : Logged s ((pull8 s).st.setFlags (Flags.unpack (pull8 s).val)) := pull8_logged.trans .of_eq
  exact (hflags.trans pull16_logged).trans .of_eq

/-! ### The protocols: from the opcode fetch on, each logs its accesses if its body does (R85 to R89, R205) -/

variable {i : Instr}

theorem runRead_logged {src : Src} {f : Byte → State → State} (h : runRead i src f s = .next t)
    (hf : ∀ b u, Logged u (f b u)) : Logged (fetchOpcode s) t := by
  cases h
  exact ((load_logged src).trans (hf _ _)).trans .of_eq

theorem runWrite_logged {m : MemArg} {v : State → Byte} (h : runWrite i m v s = .next t) : Logged (fetchOpcode s) t := by
  cases h
  exact ((resolve_logged m).trans (busWrite_logged _ _)).trans .of_eq

theorem runRmw_logged {m : MemArg} {f : Byte → State → Got} (h : runRmw i m f s = .next t)
    (hf : ∀ b u, Logged u (f b u).st) : Logged (fetchOpcode s) t := by
  cases h
  let r := resolve m (fetchOpcode s)
  have hread : Logged (fetchOpcode s) (busRead r.ea r.st).st := (resolve_logged m).trans (busRead_logged r.ea)
  exact (((hread.trans (busWrite_logged _ _)).trans (hf _ _)).trans (busWrite_logged _ _)).trans .of_eq

theorem runAcc_logged {f : Byte → State → Got} (h : runAcc i f s = .next t) (hf : ∀ b u, Logged u (f b u).st) :
    Logged (fetchOpcode s) t := by
  cases h
  exact (hf _ _).trans .of_eq

theorem runShift_logged {dst : Dst} {f : Byte → State → Got} (h : runShift i dst f s = .next t)
    (hf : ∀ b u, Logged u (f b u).st) : Logged (fetchOpcode s) t := by
  cases dst with
  | acc => exact runAcc_logged h hf
  | mem m => exact runRmw_logged h hf

theorem runImplied_logged {f : State → State} (h : runImplied i f s = .next t) (hf : ∀ u, Logged u (f u)) :
    Logged (fetchOpcode s) t := by
  cases h
  exact (hf _).trans .of_eq

theorem runBranch_logged {cond : Flags → Bool} {d : Byte} (h : runBranch i cond d s = .next t) :
    Logged (fetchOpcode s) t := by
  cases h
  exact (fetchOperand_logged 1).trans .of_eq

end

/-! ### Every instruction -/

/-- From the opcode fetch on, every instruction logs its accesses. -/
theorem exec_logged {i : Instr} {s t : State} (h : exec i s = .next t) : Logged (fetchOpcode s) t := by
  cases i
  all_goals dsimp only [exec] at h
  -- the body is off the bus
  case lda src | ldx src | ldy src | adc src | sbc src | and src | ora src | eor src | cmp src | cpx src | cpy src | bit a |
      lax a | anc code b | asr b | arr b | sbx b | las w | ane b | lxa b | sbcEb b | nopDop code src | nopTop code a =>
    exact runRead_logged h fun _ _ => .of_eq
  case sta a | stx a | sty a | sax a => exact runWrite_logged h
  case asl dst | lsr dst | rol dst | ror dst => exact runShift_logged h fun _ _ => .of_eq
  case inc a | dec a | slo a | rla a | sre a | rra a | dcp a | isb a => exact runRmw_logged h fun _ _ => .of_eq
  case tax | tay | txa | tya | tsx | txs | inx | iny | dex | dey | clc | sec | cli | sei | cld | sed | clv | nop |
      nopImp code =>
    exact runImplied_logged h fun _ => .of_eq
  case bpl d | bmi d | bvc d | bvs d | bcc d | bcs d | bne d | beq d => exact runBranch_logged h
  -- the body uses the stack
  case pha | php => exact runImplied_logged h fun _ => push8_logged _
  case pla | plp => exact runImplied_logged h fun _ => Logged.trans pull8_logged .of_eq
  case rts => exact runImplied_logged h fun _ => returnFromSubroutine_logged
  case brk => exact runImplied_logged h fun _ => takeException_logged _ _
  case rti => exact runImplied_logged h fun _ => returnFromException_logged
  case jsr w =>
    cases h
    exact ((fetchOperand_logged 2).trans (push16_logged _)).trans .of_eq
  case jmp a =>
    cases h
    exact (resolveJmp_logged a).trans .of_eq
  -- screened: nothing after the opcode fetch
  case sha a | shs w | shx w | shy w | jam code =>
    cases h
    exact .of_eq

/-- Settles O49: the opcode fetch starts an empty list with its read, and from there the instruction logs its accesses. -/
theorem memoryChangesOnlyByBusWrites : Obligations.MemoryChangesOnlyByBusWrites := by
  intro i s t h
  obtain ⟨⟨later, haccesses⟩, hcount, hmem⟩ := exec_logged h
  rw [fetchOpcode_accesses] at haccesses hcount
  refine ⟨hmem, by rw [← haccesses]; rfl, ?_⟩
  rw [fetchOpcode_busCount, List.length_singleton] at hcount
  omega

end Sys2Proof.Machine
end

section
/-! SUPPORT. The decoder and the encoder undo each other (spec/30_encoding.md R60 to R67, R82). -/

namespace Sys2Proof

/-! ### Operand bytes (R62) -/

theorem lo_word (h l : Byte) : lo (word h l) = l := BitVec.extractLsb'_append_eq_right

theorem hi_word (h l : Byte) : hi (word h l) = h := BitVec.extractLsb'_append_eq_left

section

variable {b1 b2 : Byte}

/-- The word of its two bytes, low byte first. -/
theorem word_of_bytes {w : Addr} (h : [lo w, hi w] = [b1, b2]) : word b2 b1 = w := by
  cases h
  exact Machine.word_hi_lo w

theorem MemArg.ofBytes_of_bytes {m : MemArg} (h : m.bytes = [b1, b2].take m.mode.operandBytes) :
    MemArg.ofBytes m.mode b1 b2 = m := by
  cases m with
  | zp z | zpx z | zpy z | izx z | izy z => cases h; rfl
  | abs w | abx w | aby w => exact congrArg _ (word_of_bytes h)

theorem MemArg.mode_ne (m : MemArg) : m.mode ≠ .imm ∧ m.mode ≠ .acc ∧ m.mode ≠ .imp := by
  cases m <;> exact ⟨nofun, nofun, nofun⟩

theorem Src.ofBytes_of_bytes {src : Src} (h : src.bytes = [b1, b2].take src.mode.operandBytes) :
    Src.ofBytes src.mode b1 b2 = src := by
  cases src with
  | imm b => cases h; rfl
  | mem m => simpa [Src.ofBytes, Src.mode, m.mode_ne] using MemArg.ofBytes_of_bytes h

theorem Dst.ofBytes_of_bytes {dst : Dst} (h : dst.bytes = [b1, b2].take dst.mode.operandBytes) :
    Dst.ofBytes dst.mode b1 b2 = dst := by
  cases dst with
  | acc => rfl
  | mem m => simpa [Dst.ofBytes, Dst.mode, m.mode_ne] using MemArg.ofBytes_of_bytes h

theorem JmpArg.ofBytes_of_bytes {t : JmpArg} (h : t.bytes = [b1, b2].take t.mode.operandBytes) :
    JmpArg.ofBytes t.mode b1 b2 = t := by
  cases t with
  | abs w | ind w => exact congrArg _ (word_of_bytes h)

theorem MemArg.bytes_ofBytes (mode : Mode) :
    (MemArg.ofBytes mode b1 b2).bytes = [b1, b2].take (MemArg.ofBytes mode b1 b2).mode.operandBytes := by
  cases mode <;> simp [MemArg.ofBytes, MemArg.bytes, MemArg.mode, Mode.operandBytes, lo_word, hi_word]

theorem Src.bytes_ofBytes (mode : Mode) :
    (Src.ofBytes mode b1 b2).bytes = [b1, b2].take (Src.ofBytes mode b1 b2).mode.operandBytes := by
  unfold Src.ofBytes
  split
  · rfl
  · exact MemArg.bytes_ofBytes mode

theorem Dst.bytes_ofBytes (mode : Mode) :
    (Dst.ofBytes mode b1 b2).bytes = [b1, b2].take (Dst.ofBytes mode b1 b2).mode.operandBytes := by
  unfold Dst.ofBytes
  split
  · rfl
  · exact MemArg.bytes_ofBytes mode

theorem JmpArg.bytes_ofBytes (mode : Mode) :
    (JmpArg.ofBytes mode b1 b2).bytes = [b1, b2].take (JmpArg.ofBytes mode b1 b2).mode.operandBytes := by
  unfold JmpArg.ofBytes
  split <;> simp [JmpArg.bytes, JmpArg.mode, Mode.operandBytes, lo_word, hi_word]

end

/-! ### The opcode bytes that share a mnemonic -/

/-- 0xEB is `sbcEb`'s alone (R235). -/
theorem Instr.opcode?_sbc_ne (src : Src) : (Instr.sbc src).opcode? ≠ some 0xEB := by
  dsimp only [Instr.opcode?]
  generalize src.mode = mode
  cases mode <;> decide

/-- No implied NOP variant has the documented NOP's byte (R191, R236). -/
theorem nopImpCodes_ne : ∀ code ∈ Instr.nopImpCodes, code ≠ 0xEA := by decide

theorem nopDopCodes_spec : ∀ p ∈ Instr.nopDopCodes, p.2 ≠ 0xEA ∧ p.1 ≠ .imp ∧ p.1.operandBytes = 1 := by decide

theorem nopTopCodes_spec : ∀ p ∈ Instr.nopTopCodes, p.2 ≠ 0xEA ∧ p.1 ≠ .imp ∧ p.1.operandBytes = 2 := by decide

/-! ### Decoding an encoding -/

/-- A table entry of an instruction's mnemonic and mode gives the instruction back from its opcode byte and operand bytes; bytes beyond
the operand are not looked at. -/
theorem Entry.instr_of_operand {e : Entry} {i : Instr} {op b1 b2 : Byte} (hop : i.opcode? = some op)
    (hmnemonic : e.mnemonic = i.mnemonic) (hmode : e.mode = i.mode) (hb : i.operand = [b1, b2].take i.mode.operandBytes) :
    e.instr op b1 b2 = i := by
  obtain ⟨mnemonic, mode, cycles, plus⟩ := e
  subst hmnemonic hmode
  cases i
  all_goals dsimp only [Entry.instr, Instr.mnemonic, Instr.mode, Instr.operand] at hb ⊢
  case lda src | ldx src | ldy src | adc src | and src | ora src | eor src | cmp src | cpx src | cpy src =>
    rw [Src.ofBytes_of_bytes hb]
  case sta m | stx m | sty m | bit m | inc m | dec m | slo m | rla m | sre m | rra m | dcp m | isb m | lax m | sax m | sha m =>
    rw [MemArg.ofBytes_of_bytes hb]
  case asl dst | lsr dst | rol dst | ror dst => rw [Dst.ofBytes_of_bytes hb]
  case jmp t => rw [JmpArg.ofBytes_of_bytes hb]
  case jsr w | las w | shs w | shx w | shy w => rw [word_of_bytes hb]
  case bpl d | bmi d | bvc d | bvs d | bcc d | bcs d | bne d | beq d | asr d | arr d | sbx d | ane d | lxa d =>
    cases hb
    rfl
  -- the constructors that carry their opcode byte
  case anc code b =>
    obtain ⟨-, ⟨⟩⟩ := Option.ite_none_right_eq_some.mp hop
    cases hb
    rfl
  case jam code =>
    obtain ⟨-, ⟨⟩⟩ := Option.ite_none_right_eq_some.mp hop
    rfl
  -- the second encoding of SBC
  case sbc src =>
    have hne : op ≠ 0xEB := by
      rintro rfl
      exact Instr.opcode?_sbc_ne src hop
    rw [if_neg (by simpa using hne), Src.ofBytes_of_bytes hb]
  case sbcEb b =>
    cases hop
    cases hb
    rfl
  -- the four forms of NOP
  case nop =>
    cases hop
    rfl
  case nopImp code =>
    obtain ⟨hcode, ⟨⟩⟩ := Option.ite_none_right_eq_some.mp hop
    have hne := nopImpCodes_ne op (by simpa using hcode)
    rw [if_neg (by simpa using hne)]
    rfl
  case nopDop code src =>
    obtain ⟨hcode, ⟨⟩⟩ := Option.ite_none_right_eq_some.mp hop
    obtain ⟨hne, himp, hone⟩ := nopDopCodes_spec _ (by simpa using hcode)
    simp only [beq_iff_eq, hne, himp, hone, if_false, if_true]
    rw [Src.ofBytes_of_bytes hb]
  case nopTop code m =>
    obtain ⟨hcode, ⟨⟩⟩ := Option.ite_none_right_eq_some.mp hop
    obtain ⟨hne, himp, htwo⟩ := nopTopCodes_spec _ (by simpa using hcode)
    simp only [beq_iff_eq, hne, himp, htwo, if_false]
    rw [MemArg.ofBytes_of_bytes hb]
    rfl

/-- Decoding the opcode byte and operand bytes of a well-formed instruction gives it back (R60, R82). -/
theorem decode_of_operand {i : Instr} {b1 b2 : Byte} (hw : i.wellFormed = true)
    (hb : i.operand = [b1, b2].take i.mode.operandBytes) : decode i.opcode b1 b2 = i := by
  obtain ⟨hop, hmnemonic, hmode, -⟩ := Laws.Encodable.every i hw
  exact Entry.instr_of_operand hop hmnemonic hmode hb

theorem Mode.operandBytes_le (m : Mode) : m.operandBytes ≤ 2 := by
  cases m <;> decide

/-- At most two bytes at the head of a string are its first two, cut to their number. -/
theorem eq_take_getD_append {l : List Byte} (rest : List Byte) (h : l.length ≤ 2) :
    l = [(l ++ rest).getD 0 0, (l ++ rest).getD 1 0].take l.length := by
  match l, h with
  | [], _ | [_], _ | [_, _], _ => rfl

/-- Settles O11: the operand's length is the table's, so the decoder looks at the encoding's bytes only. -/
theorem decodeEncodeRoundTrip : Obligations.DecodeEncodeRoundTrip := by
  intro i rest hw
  obtain ⟨-, -, hmode, hlength⟩ := Laws.Encodable.every i hw
  have hb := eq_take_getD_append rest (hlength ▸ i.mode.operandBytes_le)
  rw [hlength] at hb
  have henough : ¬(i.operand ++ rest).length < i.mode.operandBytes := by
    rw [List.length_append, hlength]
    omega
  rw [encode, List.cons_append, decodeBytes, hmode, if_neg henough, decode_of_operand hw hb, List.drop_left' hlength]

/-! ### Encoding what was decoded -/

/-- An instruction read from a table entry has that entry's mnemonic. -/
theorem Entry.mnemonic_instr (e : Entry) (op b1 b2 : Byte) : (e.instr op b1 b2).mnemonic = e.mnemonic := by
  obtain ⟨mnemonic, mode, cycles, plus⟩ := e
  cases mnemonic
  all_goals dsimp only [Entry.instr]
  case nop | sbc => split_ifs <;> rfl
  all_goals rfl

/-- Its operand bytes are the bytes it was read from, as many as its mode says. -/
theorem Entry.operand_instr (e : Entry) (op b1 b2 : Byte) :
    (e.instr op b1 b2).operand = [b1, b2].take (e.instr op b1 b2).mode.operandBytes := by
  obtain ⟨mnemonic, mode, cycles, plus⟩ := e
  cases mnemonic
  all_goals dsimp only [Entry.instr]
  case lda | ldx | ldy | adc | and | ora | eor | cmp | cpx | cpy => exact Src.bytes_ofBytes mode
  case sta | stx | sty | bit | inc | dec | slo | rla | sre | rra | dcp | isb | lax | sax | sha => exact MemArg.bytes_ofBytes mode
  case asl | lsr | rol | ror => exact Dst.bytes_ofBytes mode
  case jmp => exact JmpArg.bytes_ofBytes mode
  case jsr | las | shs | shx | shy => exact MemArg.bytes_ofBytes .abs
  case sbc =>
    split_ifs
    · rfl
    · exact Src.bytes_ofBytes mode
  case nop =>
    split_ifs
    · rfl
    · rfl
    · exact Src.bytes_ofBytes mode
    · exact MemArg.bytes_ofBytes mode
  all_goals rfl

/-! The row of what is decoded does not depend on the operand bytes, since an operand's mode does not. -/

section

variable (mode : Mode) (b1 b2 c1 c2 : Byte)

theorem MemArg.mode_ofBytes_congr : (MemArg.ofBytes mode b1 b2).mode = (MemArg.ofBytes mode c1 c2).mode := by
  cases mode <;> rfl

theorem Src.mode_ofBytes_congr : (Src.ofBytes mode b1 b2).mode = (Src.ofBytes mode c1 c2).mode := by
  cases mode <;> rfl

theorem Dst.mode_ofBytes_congr : (Dst.ofBytes mode b1 b2).mode = (Dst.ofBytes mode c1 c2).mode := by
  cases mode <;> rfl

theorem JmpArg.mode_ofBytes_congr : (JmpArg.ofBytes mode b1 b2).mode = (JmpArg.ofBytes mode c1 c2).mode := by
  cases mode <;> rfl

end

/-- Two instructions agree on what places them in the opcode table; of a mnemonic, they differ in operand values only. -/
structure SameRow (i j : Instr) : Prop where
  wellFormed : i.wellFormed = j.wellFormed
  opcode : i.opcode = j.opcode
  mode : i.mode = j.mode

/-- Whatever the operand bytes, an entry is decoded to one row. -/
theorem Entry.sameRow_instr (e : Entry) (op b1 b2 c1 c2 : Byte) : SameRow (e.instr op b1 b2) (e.instr op c1 c2) := by
  obtain ⟨mnemonic, mode, cycles, plus⟩ := e
  have hsrc := Src.mode_ofBytes_congr mode b1 b2 c1 c2
  have hmem := MemArg.mode_ofBytes_congr mode b1 b2 c1 c2
  have hdst := Dst.mode_ofBytes_congr mode b1 b2 c1 c2
  have hjmp := JmpArg.mode_ofBytes_congr mode b1 b2 c1 c2
  cases mnemonic
  all_goals dsimp only [Entry.instr]
  case lda | ldx | ldy | adc | and | ora | eor | cmp | cpx | cpy | sta | stx | sty | bit | inc | dec | slo | rla | sre | rra | dcp |
      isb | lax | sax | sha | asl | lsr | rol | ror | jmp =>
    constructor <;> simp only [Instr.wellFormed, Instr.opcode, Instr.opcode?, Instr.mode, hsrc, hmem, hdst, hjmp]
  case sbc | nop =>
    split_ifs <;> constructor <;> simp only [Instr.wellFormed, Instr.opcode, Instr.opcode?, Instr.mode, hsrc, hmem]
  all_goals exact ⟨rfl, rfl, rfl⟩

/-- With operand bytes 0 the rules' encodings and the map of R65 agree on every opcode byte, checked byte by byte. -/
theorem decode_zero_row : ∀ op : Byte, (decode op 0 0).wellFormed = true ∧ (decode op 0 0).opcode = op ∧
    (decode op 0 0).mode = (tableEntry op).mode := by decide

/-- Settles O12: the row is the one of operand bytes 0, and the operand is the bytes decoded, so encoding gives them back. -/
theorem everyByteDecodes : Obligations.EveryByteDecodes := by
  intro op b1 b2
  have hrow : SameRow (decode op b1 b2) (decode op 0 0) := Entry.sameRow_instr _ op b1 b2 0 0
  obtain ⟨hw, hop, hmode⟩ := decode_zero_row op
  have hop' : (decode op b1 b2).opcode = op := hrow.opcode.trans hop
  have hmode' : (decode op b1 b2).mode = (tableEntry op).mode := hrow.mode.trans hmode
  have hoperand : (decode op b1 b2).operand = [b1, b2].take (tableEntry op).mode.operandBytes :=
    hmode' ▸ Entry.operand_instr _ op b1 b2
  refine ⟨hrow.wellFormed.trans hw, hop', Entry.mnemonic_instr _ op b1 b2, hmode', ?_⟩
  rw [encode, hop', hoperand, Entry.length, Mode.length, Nat.add_comm, List.take_succ_cons]

/-! ### Known words -/

/-- An encoding with nothing after it. -/
theorem decodeBytes_encode (i : Instr) (hw : i.wellFormed = true) : decodeBytes (encode i) = .ok (i, []) := by
  simpa only [List.append_nil] using decodeEncodeRoundTrip i [] hw

/-- Settles O10: each word is the encoding of its instruction. -/
theorem knownWordsDecode : Obligations.KnownWordsDecode :=
  ⟨decodeBytes_encode (.lda (.imm 0x10)) rfl, decodeBytes_encode (.sta (.abx 0x0200)) rfl,
   decodeBytes_encode (.adc (.mem (.izy 0x10))) rfl, decodeBytes_encode (.jmp (.ind 0x30FF)) rfl,
   decodeBytes_encode (.jsr 0x9000) rfl, decodeBytes_encode (.bne 0xFC) rfl, decodeBytes_encode (.lsr .acc) rfl,
   decodeBytes_encode .php rfl, decodeBytes_encode (.slo (.aby 0x0300)) rfl, decodeBytes_encode (.sbcEb 0x01) rfl,
   decodeBytes_encode (.sha (.izy 0x10)) rfl⟩

end Sys2Proof
end

section
/-! SUPPORT. The dispatch table row by row, and what it counts (spec/30_encoding.md R61, R65, R66, R70, R71). -/

namespace Sys2Proof

open Claim

/-- A range of `k * n` numbers is `n` rows of `k`. -/
theorem range_mul_eq_flatMap (k n : Nat) : List.range (k * n) = (List.range n).flatMap fun h => (List.range k).map (k * h + ·) := by
  induction n with
  | zero => rfl
  | succ n ih => rw [Nat.mul_succ, List.range_add, List.range_succ, List.flatMap_append, ← ih, List.flatMap_singleton]

/-- The table's rows, by high and low nibble of the opcode byte (R65, R82). -/
theorem tableEntry_rows :
    (List.range 16).map (fun h => (List.range 16).map fun l => tableEntry (BitVec.ofNat 8 (16 * h + l))) = tableRows := by decide

/-- The 256 entries in the order of their opcode bytes are the rows one after the other. -/
theorem map_tableEntry : (List.range 256).map (fun n => tableEntry (BitVec.ofNat 8 n)) = tableRows.flatten := by
  rw [← tableEntry_rows, range_mul_eq_flatMap 16 16, List.map_flatMap, List.flatMap_def]
  simp only [List.map_map]
  rfl

/-- A list of bytes without repetitions and the bytes outside it make up the 256 bytes. -/
theorem length_add_length_filter_not_contains {codes : List Byte} (hnodup : codes.Nodup) :
    codes.length + ((List.range 256).filter fun n => !codes.contains (BitVec.ofNat 8 n)).length = 256 := by
  have hperm : (codes.map BitVec.toNat).Perm ((List.range 256).filter fun n => codes.contains (BitVec.ofNat 8 n)) := by
    refine (List.perm_ext_iff_of_nodup (hnodup.map fun _ _ => BitVec.eq_of_toNat_eq) (List.nodup_range.filter _)).mpr fun n => ?_
    simp only [List.mem_map, List.mem_filter, List.mem_range, List.contains_iff_mem]
    constructor
    · rintro ⟨b, hb, rfl⟩
      exact ⟨b.isLt, by simpa using hb⟩
    · rintro ⟨hn, hb⟩
      exact ⟨_, hb, Nat.mod_eq_of_lt hn⟩
  rw [← List.length_map (f := BitVec.toNat), hperm.length_eq, ← List.length_eq_length_filter_add, List.length_range]

/-- The table of R66 names no byte twice. -/
theorem undocumentedCodes_nodup : undocumentedCodes.Nodup := by decide

/-- 105 bytes are undocumented, the other 151 documented (R66). -/
theorem documented_count : ((List.range 256).filter fun n => documented (BitVec.ofNat 8 n)).length = 151 := by
  have htotal := length_add_length_filter_not_contains undocumentedCodes_nodup
  have hcodes : undocumentedCodes.length = 105 := rfl
  simp only [documented]
  omega

theorem entryCount_eq (p : Entry → Bool) : entryCount p = (tableRows.map (List.countP p)).sum := by
  rw [← List.countP_flatten, ← map_tableEntry, List.countP_map, List.countP_eq_length_filter]
  rfl

theorem entrySum_eq (f : Entry → Nat) : entrySum f = (tableRows.map fun row => (row.map f).sum).sum := by
  have h : entrySum f = (tableRows.flatten.map f).sum := by
    rw [← map_tableEntry, List.map_map]
    rfl
  rw [h, List.map_flatten, List.sum_flatten, List.map_map]
  rfl

/-- Settles O13: each count is made row by row. -/
theorem dispatchTableCounts : Obligations.DispatchTableCounts := by
  unfold Obligations.DispatchTableCounts
  simp only [entryCount_eq, entrySum_eq, documented_count]
  decide

end Sys2Proof
end

section
/-! SUPPORT. Every step answers, and a placed word is what the next step decodes (spec/40_step_and_dispatch.md section 1, section 3). -/

namespace Sys2Proof.Machine

/-! ### Every step answers -/

/-- No meaning refuses or faults; a shift has a protocol for A and one for memory (R67, R87, R88). -/
theorem exec_answers (i : Instr) (s : State) : ∃ t, exec i s = .next t := by
  cases i
  case asl dst | lsr dst | rol dst | ror dst => cases dst <;> exact ⟨_, rfl⟩
  all_goals exact ⟨_, rfl⟩

/-- Settles O42: a halted core answers itself, a running one what its instruction answers (R80, R90, R91). -/
theorem everyStepAnswers : Obligations.EveryStepAnswers := by
  intro s
  cases hr : s.run with
  | halted => exact ⟨haltedStep s, by simp only [step, hr]⟩
  | running => exact step_running hr ▸ exec_answers s.nextInstr s

/-! ### A placed word (log 6) -/

section

variable (s : State) (w : Nat)

/-- Placing takes away the device regions that hold one of the three addresses, so these are plain memory. -/
theorem State.isDevice_placeInstr {a : Addr} (ha : a = s.pc ∨ a = s.pc + 1 ∨ a = s.pc + 2) :
    (s.placeInstr w).isDevice a = false := by
  refine List.any_eq_false.mpr fun r hr hholds => ?_
  obtain ⟨-, hkept⟩ := List.mem_filter.mp hr
  simp only [Bool.not_eq_true', Bool.or_eq_false_iff] at hkept
  obtain ⟨⟨h0, h1⟩, h2⟩ := hkept
  rcases ha with rfl | rfl | rfl
  · exact Bool.false_ne_true (h0.symm.trans hholds)
  · exact Bool.false_ne_true (h1.symm.trans hholds)
  · exact Bool.false_ne_true (h2.symm.trans hholds)

variable {s} (hw : s.mem.wf = true)

include hw

/-- The three writes go to three addresses, so each byte reads back and the decoder is given the word's bytes. -/
theorem State.nextInstr_placeInstr :
    (s.placeInstr w).nextInstr = decode (BitVec.ofNat 8 w) (BitVec.ofNat 8 (w / 256)) (BitVec.ofNat 8 (w / 65536)) := by
  have h01 : s.pc.toNat ≠ (s.pc + 1).toNat := by bv_omega
  have h02 : s.pc.toNat ≠ (s.pc + 2).toNat := by bv_omega
  have h12 : (s.pc + 1).toNat ≠ (s.pc + 2).toNat := by bv_omega
  have hw0 := Memory.write_wf s.pc (BitVec.ofNat 8 w) hw
  have hw1 := Memory.write_wf (s.pc + 1) (BitVec.ofNat 8 (w / 256)) hw0
  have hpc : (s.placeInstr w).pc = s.pc := rfl
  rw [State.nextInstr, hpc, State.busValue_plain (s.isDevice_placeInstr w (.inl rfl)),
    State.busValue_plain (s.isDevice_placeInstr w (.inr (.inl rfl))),
    State.busValue_plain (s.isDevice_placeInstr w (.inr (.inr rfl)))]
  simp only [State.placeInstr, Memory.read_write_ne _ h01, Memory.read_write_ne _ h02, Memory.read_write_ne _ h12,
    Memory.read_write_self _ _ hw, Memory.read_write_self _ _ hw0, Memory.read_write_self _ _ hw1]

end

/-- What the decoder reads from a word of at least 8 bits. -/
theorem decodeTableWord_eq_some {nbits w : Nat} {i : Instr} (h : decodeTableWord nbits w = some i) :
    decode (BitVec.ofNat 8 (w % 2 ^ nbits)) (BitVec.ofNat 8 (w % 2 ^ nbits / 256)) (BitVec.ofNat 8 (w % 2 ^ nbits / 65536)) = i := by
  obtain ⟨-, ⟨⟩⟩ := Option.ite_none_left_eq_some.mp h
  rfl

/-- Settles O54: the placed core is Running, and what it fetches is the word's bytes. -/
theorem placedWordRuns : Obligations.PlacedWordRuns := by
  intro s nbits w i hw hi
  have hnext : (s.withFetchWord nbits w).nextInstr = i :=
    (State.nextInstr_placeInstr _ hw).trans (decodeTableWord_eq_some hi)
  rw [step_running rfl, hnext]

end Sys2Proof.Machine
end

section
/-! SUPPORT. One step: it runs what is decoded at PC, a halted or screened one makes no more than the opcode fetch, and its cycle count is
the table's (spec/40_step_and_dispatch.md R80 to R83, R90, R92; spec/60_exceptions.md R260 to R262). -/

namespace Sys2Proof.Machine

open Sys2Proof.Claim

/-! ### The step decodes what lies at PC (R80 to R82, R90) -/

theorem step_halted {s : State} (h : s.run = .halted) : step s = .next (haltedStep s) := by
  simp only [step, h]

/-- A step taken in Halted clears the report of the step before and reports Halted. -/
theorem haltedStep_eq (s : State) : haltedStep s = { s with accesses := [], cycles := 0, cond := .halted } := rfl

/-- Settles O41. -/
theorem haltedStepDoesNothing : Obligations.HaltedStepDoesNothing :=
  fun s h => (step_halted h).trans (congrArg _ (haltedStep_eq s))

/-- The instruction whose encoding the three bytes at PC begin with is the next one: decoding undoes encoding. -/
theorem State.nextInstr_of_encode {s : State} {i : Instr} (hw : i.wellFormed = true)
    (h : encode i = [s.busValue 0 s.pc, s.busValue 1 (s.pc + 1), s.busValue 2 (s.pc + 2)].take i.mode.length) :
    s.nextInstr = i := by
  rw [encode, Mode.length, Nat.add_comm, List.take_succ_cons] at h
  obtain ⟨hop, hoperand⟩ := List.cons.inj h
  rw [State.nextInstr, ← hop]
  exact decode_of_operand hw hoperand

/-- Settles O40: a running core executes its next instruction, which is the one encoded at PC. -/
theorem stepRunsDecoded : Obligations.StepRunsDecoded := by
  intro s i hr hw h
  rw [step_running hr, State.nextInstr_of_encode hw h]

/-! ### The fetched bytes as a list of accesses (R81, R115) -/

theorem fetched_one (s : State) : fetched s 1 = [.read s.pc (s.busValue 0 s.pc)] := by
  simp [fetched]

theorem fetched_two (s : State) :
    fetched s 2 = [.read s.pc (s.busValue 0 s.pc), .read (s.pc + 1) (s.busValue 1 (s.pc + 1))] := by
  simp [fetched, List.range_succ]

theorem fetched_three (s : State) :
    fetched s 3 = [.read s.pc (s.busValue 0 s.pc), .read (s.pc + 1) (s.busValue 1 (s.pc + 1)),
                   .read (s.pc + 2) (s.busValue 2 (s.pc + 2))] := by
  simp [fetched, List.range_succ]

/-! ### The screened opcodes (R83, R239 to R243) -/

/-- Settles O38: each of the five encodings is screened with its opcode byte. -/
theorem unstableOpcodesSignal : Obligations.UnstableOpcodesSignal := by
  unfold Obligations.UnstableOpcodesSignal
  simp only [fetched_one]
  exact ⟨fun _ _ => rfl, fun _ _ => rfl, fun _ _ => rfl, fun _ _ => rfl, fun _ _ => rfl⟩

/-- A JAM carries its opcode byte (R243). -/
theorem opcode_jam {code : Byte} (h : code ∈ Instr.jamCodes) : (Instr.jam code).opcode = code := by
  simp [Instr.opcode, Instr.opcode?, h]

/-- Settles O39: JAM is screened and halts; a step in Halted clears the report and then changes nothing more. -/
theorem jamHalts : Obligations.JamHalts := by
  intro code hcode s
  simp only [fetched_one]
  exact ⟨opcode_jam hcode, rfl, rfl, rfl⟩

/-- An instruction of an unstable mnemonic only signals its opcode byte. -/
theorem exec_unstable {i : Instr} (h : i.mnemonic ∈ unstableMnemonics) (s : State) :
    exec i s = .next (signalUnstable i.opcode s) := by
  cases i
  case sha m | shs w | shx w | shy w => rfl
  all_goals
    dsimp only [Instr.mnemonic] at h
    exact absurd h (by decide)

/-- Without device regions, states that agree in PC and memory have the same next instruction. -/
theorem State.nextInstr_congr {s t : State} (hs : s.devices = []) (ht : t.devices = []) (hpc : t.pc = s.pc) (hmem : t.mem = s.mem) :
    t.nextInstr = s.nextInstr := by
  simp [State.nextInstr, State.busValue, State.isDevice, hs, ht, hpc, hmem]

/-- On plain memory a second signal differs from the first in the access count only (R83). -/
theorem signalUnstable_signalUnstable (op : Byte) {s : State} (hd : s.devices = []) :
    signalUnstable op (signalUnstable op s) =
      { signalUnstable op s with busCount := (signalUnstable op s).busCount + 1 } := by
  simp [signalUnstable_eq, State.busValue, State.isDevice, hd]

/-- Settles O52: a signal leaves PC and memory, so the next step meets the same instruction and signals again. -/
theorem unstableStepRepeats : Obligations.UnstableStepRepeats := by
  intro s t op hr hd h hcond
  rw [step_running hr] at h
  cases exec_ending h with
  | completed _ _ hc _ => exact absurd (hc.symm.trans hcond) nofun
  | halted _ _ ht =>
    subst ht
    exact absurd hcond nofun
  | unstable _ hu _ _ =>
    rw [exec_unstable hu] at h
    cases h
    cases hcond
    let t := signalUnstable s.nextInstr.opcode s
    have hrun : t.run = .running := hr
    have hnext : t.nextInstr = s.nextInstr := State.nextInstr_congr hd hd rfl rfl
    refine ⟨?_, fun w => ?_⟩
    · rw [step_running hrun, hnext, exec_unstable hu, signalUnstable_signalUnstable _ hd]
    · obtain ⟨u, hstep⟩ := everyStepAnswers (t.setPc w)
      exact ⟨u, hstep, step_running hrun⟩

/-! ### Cycle counts (R92) -/

/-- A completed instruction returns the count of its table entry, whatever the conditions of the additional cycles are (R92). -/
theorem exec_cycles {i : Instr} {s t : State} (h : exec i s = .next t) (hc : t.cond = .none) :
    ∃ crossed taken otherPage, t.cycles = cyclesOf i.entry crossed taken otherPage := by
  cases i
  case sha m | shs w | shx w | shy w | jam code =>
    cases h
    cases hc
  case asl dst | lsr dst | rol dst | ror dst =>
    cases dst <;> cases h <;> exact ⟨_, _, _, rfl⟩
  all_goals
    cases h
    exact ⟨_, _, _, rfl⟩

/-- Every entry of the table but JAM's counts at least 2 cycles, and at most 8 with all its additional ones, checked byte by byte. -/
theorem cyclesOf_tableEntry_bounds : ∀ op : Byte, (tableEntry op).mnemonic ≠ .jam →
    ∀ crossed taken otherPage, 2 ≤ cyclesOf (tableEntry op) crossed taken otherPage ∧
      cyclesOf (tableEntry op) crossed taken otherPage ≤ 8 := by decide

/-- The next instruction's entry is that of a byte with its mnemonic. -/
theorem State.mnemonic_entry_nextInstr (s : State) : s.nextInstr.entry.mnemonic = s.nextInstr.mnemonic := by
  obtain ⟨hw, -⟩ := everyByteDecodes (s.busValue 0 s.pc) (s.busValue 1 (s.pc + 1)) (s.busValue 2 (s.pc + 2))
  obtain ⟨-, hmnemonic, -⟩ := Laws.Encodable.every s.nextInstr hw
  exact hmnemonic

/-- Settles O50: a signal counts 0, and a completed step what the table gives an entry that is no JAM. -/
theorem zeroCyclesExactlyWhenSignalled : Obligations.ZeroCyclesExactlyWhenSignalled := by
  intro s t h
  rcases step_cases h with ⟨-, rfl⟩ | ⟨hr, hend⟩
  · simp [haltedStep_eq]
  · cases hend with
    | completed hj _ hc _ =>
      rw [step_running hr] at h
      obtain ⟨crossed, taken, otherPage, hcycles⟩ := exec_cycles h hc
      obtain ⟨hlow, hhigh⟩ := cyclesOf_tableEntry_bounds s.nextInstr.opcode
        (s.mnemonic_entry_nextInstr.trans_ne hj) crossed taken otherPage
      rw [Instr.entry] at hcycles
      rw [hcycles, hc]
      exact ⟨⟨fun h0 => by omega, fun hne => absurd rfl hne⟩, fun _ => ⟨hlow, hhigh⟩⟩
    | unstable _ _ op ht => subst ht; simp [signalUnstable_eq]
    | halted _ _ ht => subst ht; simp [signalHalted_eq]

end Sys2Proof.Machine
end

section
/-! SUPPORT. The access classes in the closed form of the statements: after the instruction bytes and the pointer bytes the state is
`retired s s`, and every later access, body or cycle count only changes what `retired` is made of (spec/40_step_and_dispatch.md R84 to R88,
R92; spec/41_addressing.md R100 to R115). -/

namespace Sys2Proof.Machine

open Sys2Proof.Claim

/-! ### Operations on a state in the form `retired` -/

section

variable (s t : State) (len : Nat) (acc : List Access) (c : Nat)

/-- After `acc` a read is access number `acc.length`. -/
theorem busValue_retired (k : Nat) (a : Addr) : (retired s s len acc c).busValue k a = s.busValue (acc.length + k) a :=
  State.busValue_congr rfl rfl rfl

theorem busRead_retired (a : Addr) :
    busRead a (retired s s len acc c) =
      ⟨s.busValue acc.length a, retired s s len (acc ++ [.read a (s.busValue acc.length a)]) c⟩ := by
  simp only [busRead, busValue_retired, Nat.add_zero]
  simp [retired, Nat.add_assoc]

theorem busWrite_retired (a : Addr) (v : Byte) :
    busWrite a v (retired s t len acc c) = retired s { t with mem := stored t a v t.mem } len (acc ++ [.write a v]) c := by
  simp [busWrite, retired, stored, State.isDevice, Nat.add_assoc]

theorem finish_retired (n : Nat) : (retired s t len acc c).finish n = retired s t len acc n := rfl

end

/-! ### The fetches and the resolver (R81, R84, R115) -/

theorem fetchOpcode_eq_retired (s : State) : fetchOpcode s = retired s s 1 (fetched s 1) 0 := by
  rw [fetchOpcode_eq, fetched_one]
  rfl

theorem fetchOperand_one_eq_retired (s : State) : fetchOperand 1 (fetchOpcode s) = retired s s 2 (fetched s 2) 0 := by
  rw [fetchOperand_one_fetchOpcode, fetched_two]
  rfl

theorem fetchOperand_two_eq_retired (s : State) : fetchOperand 2 (fetchOpcode s) = retired s s 3 (fetched s 3) 0 := by
  rw [fetchOperand_two_fetchOpcode, fetched_three]
  rfl

theorem readWord_pointer_eq_retired (p : Byte) (s : State) :
    readWord (zeroPage p) (zeroPage (p + 1)) (fetchOperand 1 (fetchOpcode s)) =
      ⟨pointer p s, retired s s 2 (fetched s 2 ++ pointerReads p s) 0⟩ := by
  rw [readWord_pointer, fetched_two]
  rfl

/-- `Resolve` in closed form, for every mode (R101 to R106, R110, R111, R115). -/
theorem resolve_fetchOpcode (m : MemArg) (s : State) :
    resolve m (fetchOpcode s) = ⟨ea m s, crossed m s, retired s s m.mode.length (reads m s) 0⟩ := by
  cases m with
  | zp z | zpx z | zpy z => exact congrArg (Resolved.mk _ _) (fetchOperand_one_eq_retired s)
  | abs w | abx w | aby w => exact congrArg (Resolved.mk _ _) (fetchOperand_two_eq_retired s)
  | izx z =>
    simp only [resolve_izx, readWord_pointer_eq_retired]
    rfl
  | izy z =>
    simp only [resolve_izy, readWord_pointer_eq_retired]
    rfl

/-- `before` counts the accesses of `reads`. -/
theorem reads_length (m : MemArg) (s : State) : (reads m s).length = before m := by
  cases m <;> rfl

/-- The operand byte M in closed form (R85, R100). -/
theorem load_fetchOpcode (src : Src) (s : State) :
    load src (fetchOpcode s) = ⟨srcByte src s, srcCrossed src s, retired s s src.mode.length (srcReads src s) 0⟩ := by
  cases src with
  | imm b => exact congrArg (Loaded.mk _ _) (fetchOperand_one_eq_retired s)
  | mem m =>
    simp only [load, resolve_fetchOpcode, busRead_retired, reads_length]
    rfl

/-! ### The protocols (R85 to R88) -/

/-- Classes immediate and read, for a body that does `g` to registers and flags. -/
theorem runRead_eq {f g : Byte → State → State} (hf : ∀ b s len acc c, f b (retired s s len acc c) = retired s (g b s) len acc c)
    (i : Instr) (src : Src) (s : State) :
    runRead i src f s =
      .next (retired s (g (srcByte src s) s) src.mode.length (srcReads src s) (cyclesOf i.entry (srcCrossed src s) false false)) := by
  simp only [runRead, load_fetchOpcode, hf, finish_retired]

/-- Class write, for a byte that registers determine. -/
theorem runWrite_eq {v : State → Byte} (hv : ∀ s len acc c, v (retired s s len acc c) = v s) (i : Instr) (m : MemArg) (s : State) :
    runWrite i m v s =
      .next (retired s { s with mem := stored s (ea m s) (v s) s.mem } m.mode.length (reads m s ++ [Access.write (ea m s) (v s)])
        (cyclesOf i.entry (crossed m s) false false)) := by
  simp only [runWrite, resolve_fetchOpcode, hv, busWrite_retired, finish_retired]

/-- The body `f` of an rmw or accumulator instruction gives the byte of `g` and does to registers and flags what `g` does: it does not
look at memory or at what the step has logged, and leaves both and the devices alone. -/
structure BodyDoes (f : Byte → State → Got) (g : Byte → State → Byte × State) : Prop where
  retired : ∀ b s t len acc c, f b (retired s t len acc c) = ⟨(g b t).1, retired s (g b t).2 len acc c⟩ := by intros; rfl
  mem : ∀ b s m, g b { s with mem := m } = ((g b s).1, { (g b s).2 with mem := m }) := by intros; rfl
  devices : ∀ b s, (g b s).2.devices = s.devices := by intros; rfl

section

variable {f : Byte → State → Got} {g : Byte → State → Byte × State} (hf : BodyDoes f g)

include hf

/-- Class rmw (R87). -/
theorem runRmw_eq (i : Instr) (m : MemArg) (s : State) :
    runRmw i m f s = .next (rmwResult m g (cyclesOf i.entry (crossed m s) false false) s) := by
  simp only [runRmw, resolve_fetchOpcode, busRead_retired, busWrite_retired, hf.retired, finish_retired, reads_length]
  rw [hf.mem]
  simp only [rmwResult, atEa, stored, State.isDevice, hf.devices, List.append_assoc]
  rfl

/-- Class accumulator (R88). -/
theorem runAcc_eq (i : Instr) (s : State) :
    runAcc i f s =
      .next (retired s { (g s.a s).2 with a := (g s.a s).1 } 1 (fetched s 1) (cyclesOf i.entry false false false)) := by
  simp only [runAcc, fetchOpcode_eq_retired, hf.retired]
  rfl

end

/-! ### The encodings of a rule -/

/-- The rows are the encodings of `mk` over the operands of the given modes: the well-formed ones, with the opcode byte and the cycle
count of each. -/
structure Encodings {α : Type} (mode : α → Mode) (mk : α → Instr) (rows : List Row) : Prop where
  wellFormed : ∀ a, (mk a).wellFormed = rowsHave rows (mode a)
  opcode : ∀ r ∈ rows, ∀ a, mode a = r.mode → (mk a).opcode = r.code
  cycles : ∀ r ∈ rows, ∀ a, mode a = r.mode → ∀ cross, cyclesOf (mk a).entry cross false false = r.total cross

/-- The table entry of a row's opcode byte has the row's cycle counts. -/
def rowInTable (r : Row) : Bool :=
  (tableEntry r.code).baseCycles == r.cycles && (tableEntry r.code).pageCross == r.plus

theorem cyclesOf_rowInTable {r : Row} (h : rowInTable r = true) (cross : Bool) :
    cyclesOf (tableEntry r.code) cross false false = r.total cross := by
  simp only [rowInTable, Bool.and_eq_true, beq_iff_eq] at h
  obtain ⟨hcycles, hplus⟩ := h
  simp [cyclesOf, Row.total, hcycles, hplus]

/-- Encodings from the list of modes of the well-formedness check and the encoder's list of opcode bytes. -/
theorem Encodings.of_lists {α : Type} {mode : α → Mode} {mk : α → Instr} {rows : List Row} {modes : List Mode}
    {codes : List (Mode × Byte)} (hmodes : ∀ a, (mk a).wellFormed = modes.contains (mode a))
    (hcodes : ∀ a, (mk a).opcode? = codes.lookup (mode a)) (hrows : rows.map Row.mode = modes := by rfl)
    (hcode : ∀ r ∈ rows, codes.lookup r.mode = some r.code := by decide) (htable : ∀ r ∈ rows, rowInTable r = true := by decide) :
    Encodings mode mk rows := by
  have hopcode : ∀ r ∈ rows, ∀ a, mode a = r.mode → (mk a).opcode = r.code := by
    intro r hr a ha
    rw [Instr.opcode, hcodes, ha, hcode r hr]
    rfl
  refine ⟨fun a => ?_, hopcode, fun r hr a ha cross => ?_⟩
  · rw [hmodes, ← hrows, rowsHave, List.contains_eq_any_beq, List.any_map]
    simp only [Function.comp_def, BEq.comm]
  · rw [Instr.entry, hopcode r hr a ha]
    exact cyclesOf_rowInTable (htable r hr) cross

end Sys2Proof.Machine
end

section
/-! SUPPORT. The class statements of stores, read-modify-write opcodes, shifts, LAX, SAX, LAS and branches (spec/40_step_and_dispatch.md R85
to R88, R92; files 42, 44, 46 and 47): each follows from the encodings of its rule and from what the body does to registers and flags. Where
the model's body and the rule's are the same field by field, `BodyDoes` holds by its default proofs. -/

namespace Sys2Proof.Machine

open Sys2Proof.Claim

/-! ### A class statement from its encodings and its body -/

theorem row_total_of_not_plus {r : Row} (h : r.plus = false) (cross : Bool) : r.total cross = r.cycles := by
  simp [Row.total, h]

section

variable {rows : List Row}

/-- Class read, with no immediate form (R85). -/
theorem memReadClass_of {mk : MemArg → Instr} {f g : Byte → State → State} (he : Encodings MemArg.mode mk rows)
    (hexec : ∀ m s, exec (mk m) s = runRead (mk m) (.mem m) f s)
    (hf : ∀ b s len acc c, f b (retired s s len acc c) = retired s (g b s) len acc c) : MemReadClass mk rows g := by
  refine ⟨he.wellFormed, fun r hr m s hm => ⟨he.opcode r hr m hm, ?_⟩⟩
  rw [hexec, runRead_eq hf, he.cycles r hr m hm]
  rfl

/-- Class write (R86): no row has a page-cross cycle. -/
theorem writeClass_of {mk : MemArg → Instr} {v : State → Byte} (he : Encodings MemArg.mode mk rows)
    (hexec : ∀ m s, exec (mk m) s = runWrite (mk m) m v s) (hv : ∀ s len acc c, v (retired s s len acc c) = v s)
    (hplus : ∀ r ∈ rows, r.plus = false := by decide) : WriteClass mk rows v := by
  refine ⟨he.wellFormed, fun r hr m s hm => ⟨he.opcode r hr m hm, ?_⟩⟩
  rw [hexec, runWrite_eq hv, he.cycles r hr m hm, row_total_of_not_plus (hplus r hr)]

variable {f : Byte → State → Got} {g : Byte → State → Byte × State} (hf : BodyDoes f g)

include hf

/-- Class rmw (R87): no row has a page-cross cycle. -/
theorem rmwClass_of {mk : MemArg → Instr} (he : Encodings MemArg.mode mk rows)
    (hexec : ∀ m s, exec (mk m) s = runRmw (mk m) m f s) (hplus : ∀ r ∈ rows, r.plus = false := by decide) : RmwClass mk rows g := by
  refine ⟨he.wellFormed, fun r hr m s hm => ⟨he.opcode r hr m hm, ?_⟩⟩
  rw [hexec, runRmw_eq hf, he.cycles r hr m hm, row_total_of_not_plus (hplus r hr)]

/-- A shift or rotate: class accumulator on A, class rmw on memory (R87, R88). -/
theorem shiftClass_of {mk : Dst → Instr} (he : Encodings Dst.mode mk rows)
    (hexec : ∀ dst s, exec (mk dst) s = runShift (mk dst) dst f s) (hplus : ∀ r ∈ rows, r.plus = false := by decide) :
    ShiftClass mk rows g := by
  refine ⟨he.wellFormed, fun r hr => ⟨fun s hacc => ?_, fun m s hm => ?_⟩⟩
  · refine ⟨he.opcode r hr .acc hacc.symm, ?_⟩
    rw [hexec, runShift, runAcc_eq hf, he.cycles r hr .acc hacc.symm, row_total_of_not_plus (hplus r hr)]
  · refine ⟨he.opcode r hr (.mem m) hm, ?_⟩
    rw [hexec, runShift, runRmw_eq hf, he.cycles r hr (.mem m) hm, row_total_of_not_plus (hplus r hr)]

end

/-! ### Stores (R123 to R125, R227) -/

/-- Settles O15: each is class write with a register's byte. -/
theorem staStxStyStore : Obligations.StaStxStyStore :=
  ⟨writeClass_of (.of_lists (fun _ => rfl) fun _ => rfl) (fun _ _ => rfl) fun _ _ _ _ => rfl,
   writeClass_of (.of_lists (fun _ => rfl) fun _ => rfl) (fun _ _ => rfl) fun _ _ _ _ => rfl,
   writeClass_of (.of_lists (fun _ => rfl) fun _ => rfl) (fun _ _ => rfl) fun _ _ _ _ => rfl⟩

/-! ### Shifts, rotates, increments and decrements of memory (R160 to R165) -/

theorem asl8_does : BodyDoes (shiftBody asl8) aslOf := {}

theorem lsr8_does : BodyDoes (shiftBody lsr8) lsrOf := {}

theorem rol8_does : BodyDoes (shiftBody rol8) rolOf := {}

theorem ror8_does : BodyDoes (shiftBody ror8) rorOf := {}

/-- Settles O21: each is the shift class, its body the rule's. -/
theorem shiftsAndRotates : Obligations.ShiftsAndRotates :=
  ⟨shiftClass_of asl8_does (.of_lists (fun _ => rfl) fun _ => rfl) fun _ _ => rfl,
   shiftClass_of lsr8_does (.of_lists (fun _ => rfl) fun _ => rfl) fun _ _ => rfl,
   shiftClass_of rol8_does (.of_lists (fun _ => rfl) fun _ => rfl) fun _ _ => rfl,
   shiftClass_of ror8_does (.of_lists (fun _ => rfl) fun _ => rfl) fun _ _ => rfl⟩

/-- Settles O22: each is class rmw, its body sets Z and N only. -/
theorem memoryIncrementDecrement : Obligations.MemoryIncrementDecrement :=
  ⟨rmwClass_of {} (.of_lists (fun _ => rfl) fun _ => rfl) fun _ _ => rfl,
   rmwClass_of {} (.of_lists (fun _ => rfl) fun _ => rfl) fun _ _ => rfl⟩

/-! ### Fused read-modify-write opcodes (R220 to R225) -/

/-- Settles O33: the second half changes A, Z and N after the first half's flags. -/
theorem fusedShiftLogic : Obligations.FusedShiftLogic :=
  ⟨rmwClass_of {} (.of_lists (fun _ => rfl) fun _ => rfl) fun _ _ => rfl,
   rmwClass_of {} (.of_lists (fun _ => rfl) fun _ => rfl) fun _ _ => rfl,
   rmwClass_of {} (.of_lists (fun _ => rfl) fun _ => rfl) fun _ _ => rfl⟩

/-- `cmp_core` sets Z exactly if the two bytes are equal: their difference is 0 (R141). -/
theorem cmpCore_eq_compared (r m : Byte) (f : Flags) : cmpCore r m f = compared r m f := by
  have hz : (r - m == 0x00) = decide (r = m) := by
    rw [Bool.eq_iff_iff, beq_iff_eq, decide_eq_true_iff]
    exact sub_eq_zero
  simp only [cmpCore, Flags.setZn, compared, hz]

/-- The comparison of DCP overwrites the Z and N of its decrement (R224). -/
theorem decrementCompare_does :
    BodyDoes (fusedBody dec8 fun new s => compare s.a new s) fun old s =>
      (old - 1, { s with flags := compared s.a (old - 1) s.flags }) where
  retired _ _ _ _ _ _ := by
    simp only [fusedBody, compare, cmpCore_eq_compared]
    rfl

/-- Settles O34: RRA adds with the rotate's C; the second half of DCP and ISB overwrites the Z and N of the first. -/
theorem fusedArithmetic : Obligations.FusedArithmetic :=
  ⟨rmwClass_of {} (.of_lists (fun _ => rfl) fun _ => rfl) fun _ _ => rfl,
   rmwClass_of decrementCompare_does (.of_lists (fun _ => rfl) fun _ => rfl) fun _ _ => rfl,
   rmwClass_of {} (.of_lists (fun _ => rfl) fun _ => rfl) fun _ _ => rfl⟩

/-! ### LAX, SAX and LAS (R226, R227, R232) -/

/-- LAS's row of the table (R232). -/
def lasRow : Row := ⟨0xBB, .aby, 4, true⟩

theorem cyclesOf_las (w : Addr) (cross : Bool) : cyclesOf (Instr.las w).entry cross false false = 4 + if cross then 1 else 0 :=
  cyclesOf_rowInTable (r := lasRow) rfl cross

/-- Settles O35. -/
theorem laxSaxLas : Obligations.LaxSaxLas := by
  refine ⟨memReadClass_of (f := fun m s => ((s.setA m).setX m).setZn m) (.of_lists (fun _ => rfl) fun _ => rfl) (fun _ _ => rfl)
      fun _ _ _ _ _ => rfl,
    writeClass_of (.of_lists (fun _ => rfl) fun _ => rfl) (fun _ _ => rfl) fun _ _ _ _ => rfl, fun w s => ⟨rfl, ?_⟩⟩
  have hexec : exec (.las w) s = runRead (.las w) (.mem (.aby w)) lasBody s := rfl
  have hbody : ∀ b s len acc c, lasBody b (retired s s len acc c) =
    retired s { withA (b &&& s.sp) s with x := b &&& s.sp, sp := b &&& s.sp } len acc c := by intros; rfl
  rw [hexec, runRead_eq hbody, cyclesOf_las]
  rfl

/-! ### Branches (R205 to R213) -/

theorem cyclesOf_branch {e : Entry} (hmode : e.mode = .rel) (hcycles : e.baseCycles = 2) (taken : Bool) (a b : Addr) :
    cyclesOf e false taken (otherPage a b) = if taken then (if hi a = hi b then 3 else 4) else 2 := by
  by_cases hpage : hi a = hi b <;> cases taken <;>
    simp [cyclesOf, Entry.branchPenalty, otherPage, hmode, hcycles, hpage]

/-- A branch of the table: base cycles 2, one more if taken and one more into another page. -/
theorem branchClass_of {mk : Byte → Instr} {code : Byte} {cond : Flags → Bool} (hop : ∀ d, (mk d).opcode = code)
    (hexec : ∀ d s, exec (mk d) s = runBranch (mk d) cond d s)
    (htable : (tableEntry code).mode = .rel ∧ (tableEntry code).baseCycles = 2 := by decide) :
    BranchClass mk code cond := by
  intro d s
  refine ⟨hop d, ?_⟩
  obtain ⟨hmode, hcycles⟩ := htable
  rw [hexec, runBranch_eq, Instr.entry, hop, fetched_two]
  simp only [cyclesOf_branch hmode hcycles]
  cases cond s.flags with
  | true => rfl
  | false => rfl

/-- Settles O32: each is the branch protocol with the rule's condition. -/
theorem branchesOnFlags : Obligations.BranchesOnFlags :=
  ⟨branchClass_of (fun _ => rfl) fun _ _ => rfl, branchClass_of (fun _ => rfl) fun _ _ => rfl,
   branchClass_of (fun _ => rfl) fun _ _ => rfl, branchClass_of (fun _ => rfl) fun _ _ => rfl,
   branchClass_of (fun _ => rfl) fun _ _ => rfl, branchClass_of (fun _ => rfl) fun _ _ => rfl,
   branchClass_of (fun _ => rfl) fun _ _ => rfl, branchClass_of (fun _ => rfl) fun _ _ => rfl⟩

end Sys2Proof.Machine
end

section
/-! SUPPORT. The statement of the resolver, and the two forms of JMP in closed form (spec/41_addressing.md R101 to R115; spec/46_control.md
R200). -/

namespace Sys2Proof.Machine

open Sys2Proof.Claim

/-! ### The memory modes (R101 to R103) -/

/-- An address in page 0 is the byte it is made of (R101). -/
theorem page0_toNat (z : Byte) : (page0 z).toNat = z.toNat := BitVec.toNat_setWidth_of_le (by decide)

/-- The zero-page modes, indexed or not, stay in page 0: the index is added modulo 256 (R101 to R103). -/
theorem ea_zeroPage_lt {m : MemArg} (s : State) (h : m.mode = .zp ∨ m.mode = .zpx ∨ m.mode = .zpy) : (ea m s).toNat < 256 := by
  have hpage : ∀ z : Byte, (page0 z).toNat < 256 := fun z => page0_toNat z ▸ z.isLt
  cases m with
  | zp z | zpx z | zpy z => exact hpage _
  | abs w | abx w | aby w | izx z | izy z => simp [MemArg.mode] at h

/-- Settles O9: the closed form of `Resolve`, with what `retired` stands for written out. -/
theorem resolverComputesAddress : Obligations.ResolverComputesAddress :=
  fun m s => ⟨resolve_fetchOpcode m s, ea_zeroPage_lt s⟩

/-! ### The second pointer address of an indirect JMP (R109) -/

/-- It keeps the pointer's page. -/
theorem hi_jmpPointerHigh (w : Addr) : hi (jmpPointerHigh w) = hi w := by
  have hkeep : hi 0xFF00 = BitVec.allOnes 8 := by decide
  have hdrop : hi 0x00FF = 0 := by decide
  unfold hi at *
  rw [jmpPointerHigh, BitVec.extractLsb'_or, BitVec.extractLsb'_and, BitVec.extractLsb'_and, hkeep, hdrop, BitVec.and_allOnes]
  simp

/-- Its low byte is the pointer's plus 1, with no carry into the page. -/
theorem lo_jmpPointerHigh (w : Addr) : lo (jmpPointerHigh w) = lo w + 1 := by
  have hlo : ∀ v : Addr, lo v = v.setWidth 8 := fun v => (BitVec.setWidth_eq_extractLsb' (by decide)).symm
  have hdrop : (0xFF00 : Addr).setWidth 8 = 0 := by decide
  have hkeep : (0x00FF : Addr).setWidth 8 = BitVec.allOnes 8 := by decide
  rw [hlo, hlo, jmpPointerHigh, BitVec.setWidth_or, BitVec.setWidth_and, BitVec.setWidth_and, hdrop, hkeep, BitVec.and_allOnes,
    BitVec.setWidth_add _ _ (by decide)]
  simp

/-! ### JMP (R200) -/

/-- Two reads in a row, low byte first (R43). -/
theorem readWord_retired (a b : Addr) (s : State) (len : Nat) (acc : List Access) (c : Nat) :
    readWord a b (retired s s len acc c) =
      ⟨word (s.busValue (acc.length + 1) b) (s.busValue acc.length a),
       retired s s len (acc ++ [.read a (s.busValue acc.length a), .read b (s.busValue (acc.length + 1) b)]) c⟩ := by
  simp [readWord, busRead_retired]

/-- The target takes the place of the PC after the instruction bytes. -/
theorem finish_setPcTo_retired (s t : State) (w : Addr) (len : Nat) (acc : List Access) (c n : Nat) :
    ((retired s t len acc c).setPcTo w).finish n = jumped s t w acc n := rfl

theorem exec_jmp_abs (w : Addr) (s : State) : exec (.jmp (.abs w)) s = .next (jumped s s w (fetched s 3) 3) := by
  have hcycles : cyclesOf (Instr.jmp (.abs w)).entry false false false = 3 :=
    cyclesOf_rowInTable (r := ⟨0x4C, .abs, 3, false⟩) rfl false
  have hexec : exec (.jmp (.abs w)) s = execJmp (.abs w) s := rfl
  rw [hexec, execJmp, resolveJmp, fetchOperand_two_eq_retired, finish_setPcTo_retired, hcycles]

/-- The two pointer bytes are accesses 3 and 4 of the step. -/
theorem exec_jmp_ind (w : Addr) (s : State) :
    exec (.jmp (.ind w)) s =
      .next (jumped s s (word (s.busValue 4 (jmpPointerHigh w)) (s.busValue 3 w))
        (fetched s 3 ++ [.read w (s.busValue 3 w), .read (jmpPointerHigh w) (s.busValue 4 (jmpPointerHigh w))]) 5) := by
  have hcycles : cyclesOf (Instr.jmp (.ind w)).entry false false false = 5 :=
    cyclesOf_rowInTable (r := ⟨0x6C, .ind, 5, false⟩) rfl false
  have hexec : exec (.jmp (.ind w)) s = execJmp (.ind w) s := rfl
  have hlength : (fetched s 3).length = 3 := rfl
  rw [hexec, execJmp, resolveJmp_ind, fetchOperand_two_eq_retired, readWord_retired, finish_setPcTo_retired, hlength, hcycles]

/-- Settles O27. -/
theorem jumpTargets : Obligations.JumpTargets :=
  ⟨fun w s => ⟨rfl, exec_jmp_abs w s⟩, fun w s => ⟨rfl, exec_jmp_ind w s⟩, fun w => ⟨hi_jmpPointerHigh w, lo_jmpPointerHigh w⟩⟩

end Sys2Proof.Machine
end

section
/-! SUPPORT. The class statements of loads and register transfers (spec/40_step_and_dispatch.md R85, R89; spec/42_load_store_transfer.md):
class immediate and read over all source operands, and class implied. The bodies here move a byte into a register and, but for TXS, set Z and
N from it, as the rule does field by field: `f` and `g` agree on `retired` by the default proof. -/

namespace Sys2Proof.Machine

open Sys2Proof.Claim

/-! ### A class statement from its encodings and its body -/

/-- Class immediate and read (R85). -/
theorem readClass_of {rows : List Row} {mk : Src → Instr} {f g : Byte → State → State} (he : Encodings Src.mode mk rows)
    (hexec : ∀ src s, exec (mk src) s = runRead (mk src) src f s)
    (hf : ∀ b s len acc c, f b (retired s s len acc c) = retired s (g b s) len acc c := by intros; rfl) : ReadClass mk rows g := by
  refine ⟨he.wellFormed, fun r hr src s hsrc => ⟨he.opcode r hr src hsrc, ?_⟩⟩
  rw [hexec, runRead_eq hf, he.cycles r hr src hsrc]

/-- Class implied, for a body that does `g` to registers and flags (R89). -/
theorem runImplied_eq {f g : State → State} (hf : ∀ s len acc c, f (retired s s len acc c) = retired s (g s) len acc c)
    (i : Instr) (s : State) :
    runImplied i f s = .next (retired s (g s) 1 (fetched s 1) (cyclesOf i.entry false false false)) := by
  simp only [runImplied, fetchOpcode_eq_retired, hf, finish_retired]

/-- A one-byte instruction with 2 base cycles in the table (R89). -/
theorem impliedClass_of {i : Instr} {code : Byte} {f g : State → State} (hop : i.opcode = code)
    (hexec : ∀ s, exec i s = runImplied i f s)
    (hf : ∀ s len acc c, f (retired s s len acc c) = retired s (g s) len acc c := by intros; rfl)
    (htable : rowInTable ⟨code, .imp, 2, false⟩ = true := by decide) : ImpliedClass i code g := by
  refine ⟨hop, fun s => ?_⟩
  rw [hexec, runImplied_eq hf, Instr.entry, hop, cyclesOf_rowInTable htable, row_total_of_not_plus rfl]

/-! ### Loads (R120 to R122) -/

/-- Settles O14: each is class immediate or read, its body `set_zn` of one register. -/
theorem ldaLdxLdyLoad : Obligations.LdaLdxLdyLoad :=
  ⟨readClass_of (f := fun m s => (s.setA m).setZn m) (.of_lists (fun _ => rfl) fun _ => rfl) fun _ _ => rfl,
   readClass_of (f := fun m s => (s.setX m).setZn m) (.of_lists (fun _ => rfl) fun _ => rfl) fun _ _ => rfl,
   readClass_of (f := fun m s => (s.setY m).setZn m) (.of_lists (fun _ => rfl) fun _ => rfl) fun _ _ => rfl⟩

/-! ### Transfers (R126 to R131) -/

/-- Settles O16: each is class implied; TXS is the one whose body leaves the flags. -/
theorem registerTransfers : Obligations.RegisterTransfers :=
  ⟨impliedClass_of (f := fun s => (s.setX s.a).setZn s.a) rfl fun _ => rfl,
   impliedClass_of (f := fun s => (s.setY s.a).setZn s.a) rfl fun _ => rfl,
   impliedClass_of (f := fun s => (s.setA s.x).setZn s.x) rfl fun _ => rfl,
   impliedClass_of (f := fun s => (s.setA s.y).setZn s.y) rfl fun _ => rfl,
   impliedClass_of (f := fun s => (s.setX s.sp).setZn s.sp) rfl fun _ => rfl,
   impliedClass_of (f := fun s => s.setSp s.x) rfl fun _ => rfl⟩

end Sys2Proof.Machine
end

section
/-! SUPPORT. Arithmetic, logic, compare and bit test (spec/43_arith_logic.md): what `adc_core` and `cmp_core` compute as numbers (R140,
R141, R143), and the class statements of the instructions that use them (R142 to R150, R235). -/

namespace Sys2Proof.Machine

open Sys2Proof.Claim

/-! ### `adc_core` as a sum (R140) -/

section

variable (a m : Byte) (cin : Bool)

/-- The 9-bit sum of two bytes and a carry does not wrap. -/
theorem adcSum_toNat : (a.setWidth 9 + m.setWidth 9 + carryIn 9 cin).toNat = a.toNat + m.toNat + cin.toNat := by
  have hcarry : (carryIn 9 cin).toNat = cin.toNat := by cases cin <;> rfl
  have hcin := cin.toNat_le
  simp only [BitVec.toNat_add, BitVec.toNat_setWidth, hcarry]
  omega

theorem adcCore_r_toNat : (adcCore a m cin).r.toNat = (a.toNat + m.toNat + cin.toNat) % 256 := by
  rw [← adcSum_toNat]
  exact BitVec.toNat_setWidth ..

/-- The carry out is the top bit of the 9-bit sum. -/
theorem adcCore_c : (adcCore a m cin).c = decide (256 ≤ a.toNat + m.toNat + cin.toNat) := by
  rw [← adcSum_toNat]
  exact (BitVec.msb_eq_getLsbD_last _).symm.trans (BitVec.msb_eq_decide _)

/-- V in the bits of the operands and the result. -/
theorem adcCore_v_eq_signs :
    (adcCore a m cin).v = (a.getLsbD 7 == m.getLsbD 7 && (adcCore a m cin).r.getLsbD 7 != a.getLsbD 7) := by
  have hv : (adcCore a m cin).v = (~~~(a ^^^ m) &&& (a ^^^ (adcCore a m cin).r)).getLsbD 7 := rfl
  have hsigns : ∀ x y z : Bool, (!(x ^^ y) && (x ^^ z)) = (x == y && z != x) := by decide
  rw [hv, BitVec.getLsbD_and, BitVec.getLsbD_not, BitVec.getLsbD_xor, BitVec.getLsbD_xor]
  exact hsigns _ _ _

/-- Bit 7 of a byte is the sign of its two's-complement value. -/
theorem getLsbD_seven (b : Byte) : b.getLsbD 7 = decide (128 ≤ b.toNat) :=
  (BitVec.msb_eq_getLsbD_last b).symm.trans (BitVec.msb_eq_decide b)

/-- V is signed overflow: equal signs of the operands and another sign of the result. -/
theorem adcCore_v_eq_overflow :
    (adcCore a m cin).v = decide (a.toInt + m.toInt + cin.toNat < -128 ∨ 127 < a.toInt + m.toInt + (cin.toNat : Int)) := by
  have ha := a.isLt
  have hm := m.isLt
  have hcin := cin.toNat_le
  rw [adcCore_v_eq_signs, Bool.eq_iff_iff]
  simp only [getLsbD_seven, adcCore_r_toNat, BitVec.toInt_eq_toNat_cond, Bool.and_eq_true, beq_iff_eq, bne_iff_ne, ne_eq,
    decide_eq_decide, decide_eq_true_eq]
  omega

end

/-- Settles O3. -/
theorem adcCoreArithmetic : Obligations.AdcCoreArithmetic :=
  fun a m cin => ⟨adcCore_r_toNat a m cin, adcCore_c a m cin, adcCore_v_eq_overflow a m cin, adcCore_v_eq_signs a m cin, rfl, rfl⟩

/-! ### The complement of the operand: subtraction with borrow (R143) -/

theorem complement_toNat (m : Byte) : (m ^^^ 0xFF).toNat = 255 - m.toNat := by
  rw [show (0xFF : Byte) = BitVec.allOnes 8 from rfl, BitVec.xor_allOnes, BitVec.toNat_not]

theorem complement_toInt (m : Byte) : (m ^^^ 0xFF).toInt = -1 - m.toInt := by
  have hm := m.isLt
  simp only [BitVec.toInt_eq_toNat_cond, complement_toNat]
  omega

/-- Settles O4: with `complement_toNat` and `complement_toInt`, `adc_core` adds 256 - (m + borrow) to a, or -(m + borrow) as signed
numbers. -/
theorem sbcBorrowArithmetic : Obligations.SbcBorrowArithmetic := by
  intro a m c
  have hm := m.isLt
  have hc := c.toNat_le
  refine ⟨?_, ?_, ?_⟩
  · rw [adcCore_r_toNat, complement_toNat]
    omega
  · rw [adcCore_c, complement_toNat, decide_eq_decide]
    omega
  · rw [adcCore_v_eq_overflow, complement_toInt, decide_eq_decide]
    omega

/-- Settles O5: `compared` is the statement's record of flags. -/
theorem cmpCoreFlags : Obligations.CmpCoreFlags := cmpCore_eq_compared

/-! ### ADC and SBC (R142, R143, R235) -/

theorem addToA_retired (b : Byte) (s : State) (len : Nat) (acc : List Access) (c : Nat) :
    addToA b (retired s s len acc c) = retired s (added b s) len acc c := rfl

/-- A two-byte immediate instruction with 2 base cycles in the table (R85). -/
theorem immClass_of {mk : Byte → Instr} {code : Byte} {f g : Byte → State → State} (hop : ∀ b, (mk b).opcode = code)
    (hexec : ∀ b s, exec (mk b) s = runRead (mk b) (.imm b) f s)
    (hf : ∀ b s len acc c, f b (retired s s len acc c) = retired s (g b s) len acc c := by intros; rfl)
    (htable : rowInTable ⟨code, .imm, 2, false⟩ = true := by decide) : ImmClass mk code g := by
  refine fun b s => ⟨hop b, ?_⟩
  rw [hexec, runRead_eq hf, Instr.entry, hop, cyclesOf_rowInTable htable, row_total_of_not_plus rfl]
  rfl

theorem sbc_readClass : ReadClass .sbc sbcRows fun m s => added (m ^^^ 0xFF) s :=
  readClass_of (.of_lists (fun _ => rfl) fun _ => rfl) (fun _ _ => rfl) fun _ => addToA_retired _

theorem sbcEb_immClass : ImmClass .sbcEb 0xEB fun m s => added (m ^^^ 0xFF) s :=
  immClass_of (fun _ => rfl) (fun _ _ => rfl) fun _ => addToA_retired _

/-- The second encoding does what the first does (R235): their class statements give the same next state. -/
theorem exec_sbcEb (b : Byte) (s : State) : exec (.sbcEb b) s = exec (.sbc (.imm b)) s :=
  have ⟨_, hsbcEb⟩ := sbcEb_immClass b s
  have ⟨_, hrows⟩ := sbc_readClass
  have ⟨_, hsbc⟩ := hrows ⟨0xE9, .imm, 2, false⟩ (by decide) (.imm b) s rfl
  hsbcEb.trans hsbc.symm

/-- Settles O17: each is class immediate or read, its body `adc_core` on A. -/
theorem adcSbcAccumulate : Obligations.AdcSbcAccumulate :=
  ⟨readClass_of (.of_lists (fun _ => rfl) fun _ => rfl) (fun _ _ => rfl) addToA_retired,
   sbc_readClass, sbcEb_immClass, exec_sbcEb, fun _ => rfl⟩

/-! ### AND, ORA, EOR (R144 to R146) -/

/-- Settles O18: each is class immediate or read, its body `set_zn` of A. -/
theorem logicOperations : Obligations.LogicOperations :=
  ⟨readClass_of (f := fun m s => (s.setA (s.a &&& m)).setZn (s.a &&& m)) (.of_lists (fun _ => rfl) fun _ => rfl) fun _ _ => rfl,
   readClass_of (f := fun m s => (s.setA (s.a ||| m)).setZn (s.a ||| m)) (.of_lists (fun _ => rfl) fun _ => rfl) fun _ _ => rfl,
   readClass_of (f := fun m s => (s.setA (s.a ^^^ m)).setZn (s.a ^^^ m)) (.of_lists (fun _ => rfl) fun _ => rfl) fun _ _ => rfl⟩

/-! ### CMP, CPX, CPY (R147 to R149) -/

theorem compare_retired (r b : Byte) (s : State) (len : Nat) (acc : List Access) (c : Nat) :
    compare r b (retired s s len acc c) = retired s { s with flags := compared r b s.flags } len acc c := by
  rw [compare, cmpCore_eq_compared]
  rfl

/-- Settles O19: each is class immediate or read, its body `cmp_core` of one register. -/
theorem compareOperations : Obligations.CompareOperations :=
  ⟨readClass_of (f := fun m s => compare s.a m s) (.of_lists (fun _ => rfl) fun _ => rfl) (fun _ _ => rfl)
     fun b s => compare_retired s.a b s,
   readClass_of (f := fun m s => compare s.x m s) (.of_lists (fun _ => rfl) fun _ => rfl) (fun _ _ => rfl)
     fun b s => compare_retired s.x b s,
   readClass_of (f := fun m s => compare s.y m s) (.of_lists (fun _ => rfl) fun _ => rfl) (fun _ _ => rfl)
     fun b s => compare_retired s.y b s⟩

/-! ### BIT (R150) -/

/-- Settles O20: class read with no immediate form, its body `bitFlags`. -/
theorem bitTest : Obligations.BitTest :=
  memReadClass_of (f := fun b s => s.setFlags (bitFlags s.a b s.flags)) (.of_lists (fun _ => rfl) fun _ => rfl) (fun _ _ => rfl)
    fun _ _ _ _ _ => rfl

end Sys2Proof.Machine
end

section
/-! SUPPORT. Increment and decrement of an index register (spec/44_shift_incdec.md R166 to R169): class implied, with the body that writes
the register and sets Z and N from the same byte. -/

namespace Sys2Proof.Machine

open Sys2Proof.Claim

/-- Settles O23: each is class implied, its body `set_zn` of the register 1 more or 1 less. -/
theorem registerIncrementDecrement : Obligations.RegisterIncrementDecrement :=
  ⟨impliedClass_of (f := fun s => (s.setX (s.x + 1)).setZn (s.x + 1)) rfl fun _ => rfl,
   impliedClass_of (f := fun s => (s.setY (s.y + 1)).setZn (s.y + 1)) rfl fun _ => rfl,
   impliedClass_of (f := fun s => (s.setX (s.x - 1)).setZn (s.x - 1)) rfl fun _ => rfl,
   impliedClass_of (f := fun s => (s.setY (s.y - 1)).setZn (s.y - 1)) rfl fun _ => rfl⟩

end Sys2Proof.Machine
end

section
/-! SUPPORT. The stack instructions, the flag instructions and the NOPs (spec/45_stack_flags.md; spec/47_undocumented.md section 3). A push and
a pull keep the form `retired` with one access more; a flag instruction is class implied; the operand of an undocumented NOP is class immediate
or read with the body that does nothing. -/

namespace Sys2Proof.Machine

open Sys2Proof.Claim

/-! ### One stack access (R47, R48, R89) -/

theorem push8_retired (v : Byte) (s t : State) (len : Nat) (acc : List Access) (c : Nat) :
    push8 v (retired s t len acc c) =
      retired s { t with sp := t.sp - 1, mem := stored t (stackAddr t.sp) v t.mem } len (acc ++ [.write (stackAddr t.sp) v]) c := by
  rw [push8, busWrite_retired]
  rfl

/-- After `acc` the pull's read is access number `acc.length`. -/
theorem pull8_retired (s : State) (len : Nat) (acc : List Access) (c : Nat) :
    pull8 (retired s s len acc c) =
      ⟨s.busValue acc.length (stackAddr (s.sp + 1)),
       retired s { s with sp := s.sp + 1 } len
         (acc ++ [.read (stackAddr (s.sp + 1)) (s.busValue acc.length (stackAddr (s.sp + 1)))]) c⟩ := by
  have hval : (retired s s len acc c).busValue 0 (stackAddr (s.sp + 1)) = s.busValue acc.length (stackAddr (s.sp + 1)) :=
    busValue_retired s len acc c 0 _
  have hsp : (retired s s len acc c).sp = s.sp := rfl
  rw [pull8_eq, hsp, hval]
  simp [retired, Nat.add_assoc]

/-- A one-byte instruction whose body leaves `t` and has made the accesses `acc`, with the table's base cycles (R89). -/
theorem exec_of_body {i : Instr} {code : Byte} {n : Nat} {f : State → State} {s t : State} {acc : List Access} (hop : i.opcode = code)
    (hexec : exec i s = runImplied i f s) (hbody : f (retired s s 1 (fetched s 1) 0) = retired s t 1 acc 0)
    (htable : rowInTable ⟨code, .imp, n, false⟩ = true := by decide) : exec i s = .next (retired s t 1 acc n) := by
  rw [hexec, runImplied, fetchOpcode_eq_retired, hbody, finish_retired, Instr.entry, hop, cyclesOf_rowInTable htable,
    row_total_of_not_plus rfl]

/-! ### PHA, PLA, PHP, PLP (R180 to R183) -/

theorem pullA_retired (s : State) :
    pullA (retired s s 1 (fetched s 1) 0) =
      retired s { withA (s.busValue 1 (stackAddr (s.sp + 1))) s with sp := s.sp + 1 } 1
        (fetched s 1 ++ [.read (stackAddr (s.sp + 1)) (s.busValue 1 (stackAddr (s.sp + 1)))]) 0 := by
  rw [pullA, pull8_retired]
  rfl

theorem pullFlags_retired (s : State) :
    pullFlags (retired s s 1 (fetched s 1) 0) =
      retired s { s with sp := s.sp + 1, flags := Flags.unpack (s.busValue 1 (stackAddr (s.sp + 1))) } 1
        (fetched s 1 ++ [.read (stackAddr (s.sp + 1)) (s.busValue 1 (stackAddr (s.sp + 1)))]) 0 := by
  rw [pullFlags, pull8_retired]
  rfl

/-- Settles O24: each is class implied, its body one push or one pull. -/
theorem stackInstructions : Obligations.StackInstructions :=
  ⟨rfl, rfl, rfl, rfl,
   fun s => exec_of_body (f := fun s => push8 s.a s) rfl rfl (push8_retired s.a s s 1 (fetched s 1) 0),
   fun s => exec_of_body (f := fun s => push8 s.flags.pushed s) rfl rfl (push8_retired s.flags.pushed s s 1 (fetched s 1) 0),
   fun s => exec_of_body rfl rfl (pullA_retired s),
   fun s => exec_of_body rfl rfl (pullFlags_retired s)⟩

/-! ### CLC, SEC, CLI, SEI, CLD, SED, CLV (R184 to R190) -/

/-- Settles O25: each is class implied, its body the write of one flag. -/
theorem flagInstructions : Obligations.FlagInstructions :=
  ⟨impliedClass_of (f := fun s => s.setFlags { s.flags with c := false }) rfl fun _ => rfl,
   impliedClass_of (f := fun s => s.setFlags { s.flags with c := true }) rfl fun _ => rfl,
   impliedClass_of (f := fun s => s.setFlags { s.flags with i := false }) rfl fun _ => rfl,
   impliedClass_of (f := fun s => s.setFlags { s.flags with i := true }) rfl fun _ => rfl,
   impliedClass_of (f := fun s => s.setFlags { s.flags with d := false }) rfl fun _ => rfl,
   impliedClass_of (f := fun s => s.setFlags { s.flags with d := true }) rfl fun _ => rfl,
   impliedClass_of (f := fun s => s.setFlags { s.flags with v := false }) rfl fun _ => rfl⟩

/-! ### NOP and its variants (R191, R236 to R238) -/

/-- An implied NOP variant carries its opcode byte (R236). -/
theorem opcode_nopImp {code : Byte} (h : code ∈ Instr.nopImpCodes) : (Instr.nopImp code).opcode = code := by
  simp [Instr.opcode, Instr.opcode?, h]

/-- A two-byte NOP variant carries its opcode byte (R237). -/
theorem opcode_nopDop {code : Byte} {src : Src} (h : (Instr.nopDop code src).wellFormed = true) :
    (Instr.nopDop code src).opcode = code := by
  have hcode : Instr.nopDopCodes.contains (src.mode, code) = true := h
  rw [Instr.opcode, Instr.opcode?, if_pos hcode, Option.getD_some]

/-- A three-byte NOP variant carries its opcode byte (R238). -/
theorem opcode_nopTop {code : Byte} {m : MemArg} (h : (Instr.nopTop code m).wellFormed = true) :
    (Instr.nopTop code m).opcode = code := by
  have hcode : Instr.nopTopCodes.contains (m.mode, code) = true := h
  rw [Instr.opcode, Instr.opcode?, if_pos hcode, Option.getD_some]

theorem nopImpCodes_inTable : ∀ code ∈ Instr.nopImpCodes, rowInTable ⟨code, .imp, 2, false⟩ = true := by decide

theorem dopRows_spec : ∀ r ∈ dopRows, Instr.nopDopCodes.contains (r.mode, r.code) = true ∧ r.mode.length = 2 ∧ r.plus = false ∧
    rowInTable r = true := by decide

theorem topRows_spec : ∀ r ∈ topRows, Instr.nopTopCodes.contains (r.mode, r.code) = true ∧ r.mode.length = 3 ∧
    rowInTable r = true := by decide

/-- An operand fetched or read and discarded (R85): nothing changes but PC. -/
theorem exec_of_discard {i : Instr} {src : Src} {r : Row} {s : State} (hop : i.opcode = r.code)
    (hexec : exec i s = runRead i src (fun _ s => s) s) (htable : rowInTable r = true) :
    exec i s = .next (retired s s src.mode.length (srcReads src s) (r.total (srcCrossed src s))) := by
  rw [hexec, runRead_eq (g := fun _ s => s) fun _ _ _ _ _ => rfl, Instr.entry, hop, cyclesOf_rowInTable htable]

/-- R237: no two-byte variant has a page-cross cycle. -/
theorem nopDop_row {r : Row} (hr : r ∈ dopRows) {src : Src} (s : State) (hsrc : src.mode = r.mode) :
    (Instr.nopDop r.code src).wellFormed = true ∧ (Instr.nopDop r.code src).opcode = r.code ∧
      exec (.nopDop r.code src) s = .next (retired s s 2 (srcReads src s) r.cycles) := by
  obtain ⟨hcode, hlength, hplus, htable⟩ := dopRows_spec r hr
  rw [← hsrc] at hcode hlength
  have hop := opcode_nopDop hcode
  refine ⟨hcode, hop, ?_⟩
  rw [exec_of_discard hop rfl htable, hlength, row_total_of_not_plus hplus]

/-- R238: the variants with mode abx have the page-cross cycle. -/
theorem nopTop_row {r : Row} (hr : r ∈ topRows) {m : MemArg} (s : State) (hm : m.mode = r.mode) :
    (Instr.nopTop r.code m).wellFormed = true ∧ (Instr.nopTop r.code m).opcode = r.code ∧
      exec (.nopTop r.code m) s =
        .next (retired s s 3 (reads m s ++ [Access.read (ea m s) (atEa m s)]) (r.total (crossed m s))) := by
  obtain ⟨hcode, hlength, htable⟩ := topRows_spec r hr
  rw [← hm] at hcode hlength
  have hop := opcode_nopTop hcode
  have hlen : (Src.mem m).mode.length = 3 := hlength
  refine ⟨hcode, hop, ?_⟩
  rw [exec_of_discard (src := .mem m) hop rfl htable, hlen]
  rfl

/-- Settles O26: every body does nothing. -/
theorem noOperations : Obligations.NoOperations :=
  ⟨impliedClass_of (f := fun s => s) rfl fun _ => rfl,
   fun code hcode =>
     impliedClass_of (f := fun s => s) (opcode_nopImp hcode) (fun _ => rfl) (htable := nopImpCodes_inTable code hcode),
   fun _ hr _ s hsrc => nopDop_row hr s hsrc,
   fun _ hr _ s hm => nopTop_row hr s hm⟩

end Sys2Proof.Machine
end

section
/-! SUPPORT. JSR, RTS, BRK and RTI in closed form, and the returns they make together (spec/46_control.md R201 to R204). Pushes keep the
form `retired` and act on its state, so the state after a call is `jumped` over the pushes, and what the return pulls is what they left in
the same slots. -/

namespace Sys2Proof.Machine

open Sys2Proof.Claim

/-! ### Words on the stack after the instruction bytes (R49, R50) -/

theorem push8_retired_push8 (v : Byte) (s t : State) (len : Nat) (acc : List Access) (c : Nat) :
    push8 v (retired s t len acc c) = retired s (push8 v t) len (acc ++ [Access.write (stackAddr t.sp) v]) c :=
  push8_retired v s t len acc c

theorem push16_retired (w : Addr) (s t : State) (len : Nat) (acc : List Access) (c : Nat) :
    push16 w (retired s t len acc c) =
      retired s (push16 w t) len (acc ++ [Access.write (stackAddr t.sp) (hi w), Access.write (stackAddr (t.sp - 1)) (lo w)]) c := by
  rw [push16, push8_retired_push8, push8_retired_push8, List.append_assoc]
  rfl

/-- After `acc` the pull's reads are the next two accesses. -/
theorem pull16_retired (s : State) (len : Nat) (acc : List Access) (c : Nat) :
    pull16 (retired s s len acc c) =
      let l := s.busValue acc.length (stackAddr (s.sp + 1))
      let h := s.busValue (acc.length + 1) (stackAddr (s.sp + 2))
      ⟨word h l,
       retired s { s with sp := s.sp + 2 } len
         (acc ++ [Access.read (stackAddr (s.sp + 1)) l, Access.read (stackAddr (s.sp + 2)) h]) c⟩ := by
  have hsp : (retired s s len acc c).sp = s.sp := rfl
  simp only [pull16_eq, hsp, busValue_retired, Nat.add_zero]
  simp [retired, Nat.add_assoc]

theorem push16_sp (w : Addr) (s : State) : (push16 w s).sp = s.sp - 2 := by rw [push16_eq]

/-- The first pull takes the lower slot. -/
theorem push16_sp_add_one (w : Addr) (s : State) : (push16 w s).sp + 1 = s.sp - 1 := by
  rw [push16_sp]
  bv_omega

theorem push16_sp_add_two (w : Addr) (s : State) : (push16 w s).sp + 2 = s.sp := by
  rw [push16_sp]
  bv_omega

@[simp] theorem State.isDevice_push8 (v : Byte) (s : State) (a : Addr) : (push8 v s).isDevice a = s.isDevice a := rfl

@[simp] theorem State.isDevice_push16 (w : Addr) (s : State) (a : Addr) : (push16 w s).isDevice a = s.isDevice a := by
  rw [push16, isDevice_push8, isDevice_push8]

@[simp] theorem State.isDevice_setFlags (s : State) (f : Flags) (a : Addr) : (s.setFlags f).isDevice a = s.isDevice a := rfl

/-! ### The next state of a jump -/

section

variable (s t : State) (pc : Addr) (acc : List Access) (c : Nat)

@[simp] theorem jumped_pc : (jumped s t pc acc c).pc = pc := rfl
@[simp] theorem jumped_sp : (jumped s t pc acc c).sp = t.sp := rfl
@[simp] theorem jumped_flags : (jumped s t pc acc c).flags = t.flags := rfl

/-- A plain address reads the same in the next step: the number of the access does not matter. -/
theorem busValue_jumped {a : Addr} (hd : t.isDevice a = false) (k : Nat) : (jumped s t pc acc c).busValue k a = t.busValue 0 a :=
  (State.busValue_plain (s := jumped s t pc acc c) hd k).trans (State.busValue_plain hd 0).symm

end

/-- A one-byte instruction whose body leaves `t`, has made the accesses `acc` and goes to `w`, with the table's base cycles (R89). -/
theorem exec_of_jump {i : Instr} {code : Byte} {n : Nat} {f : State → State} {s t : State} {w : Addr} {acc : List Access}
    (hop : i.opcode = code) (hexec : exec i s = runImplied i f s)
    (hbody : f (retired s s 1 (fetched s 1) 0) = (retired s t 1 acc 0).setPcTo w)
    (htable : rowInTable ⟨code, .imp, n, false⟩ = true := by decide) : exec i s = .next (jumped s t w acc n) := by
  rw [hexec, runImplied, fetchOpcode_eq_retired, hbody, finish_setPcTo_retired, Instr.entry, hop, cyclesOf_rowInTable htable,
    row_total_of_not_plus rfl]

/-! ### JSR and RTS (R201, R202) -/

/-- The return address is the last byte of the instruction. -/
theorem exec_jsr (w : Addr) (s : State) :
    exec (.jsr w) s =
      .next (jumped s (push16 (s.pc + 2) s) w
        (fetched s 3 ++ [Access.write (stackAddr s.sp) (hi (s.pc + 2)), Access.write (stackAddr (s.sp - 1)) (lo (s.pc + 2))]) 6) := by
  have hcycles : cyclesOf (Instr.jsr w).entry false false false = 6 :=
    cyclesOf_rowInTable (r := ⟨0x20, .abs, 6, false⟩) rfl false
  have hret : (retired s s 3 (fetched s 3) 0).pc - 1 = s.pc + 2 := add_sub_assoc s.pc 3 1
  have hexec : exec (.jsr w) s = execJsr w s := rfl
  rw [hexec, execJsr, fetchOperand_two_eq_retired, hret, push16_retired, finish_setPcTo_retired, hcycles]

/-- Settles O28. -/
theorem jsrPushesAndJumps : Obligations.JsrPushesAndJumps := by
  refine fun w s => ⟨rfl, ?_⟩
  rw [exec_jsr, push16_eq]
  rfl

theorem exec_rts (s : State) :
    exec .rts s =
      let l := s.busValue 1 (stackAddr (s.sp + 1))
      let h := s.busValue 2 (stackAddr (s.sp + 2))
      .next (jumped s { s with sp := s.sp + 2 } (word h l + 1)
        (fetched s 1 ++ [Access.read (stackAddr (s.sp + 1)) l, Access.read (stackAddr (s.sp + 2)) h]) 6) := by
  refine exec_of_jump (f := fun s => returnFromSubroutine s) rfl rfl ?_
  rw [returnFromSubroutine, pull16_retired]
  rfl

/-- RTS pulls the word that JSR pushed (R202). -/
theorem exec_jsr_rts {s : State} (w : Addr) (hw : s.mem.wf = true) (hhi : s.isDevice (stackAddr s.sp) = false)
    (hlo : s.isDevice (stackAddr (s.sp - 1)) = false) :
    ∃ t u, exec (.jsr w) s = .next t ∧ exec .rts t = .next u ∧ u.pc = s.pc + 3 ∧ u.sp = s.sp := by
  refine ⟨_, _, exec_jsr w s, exec_rts _, ?_, ?_⟩
  · simp only [jumped_pc, jumped_sp, push16_sp_add_one, push16_sp_add_two, busValue_jumped, State.isDevice_push16, hhi, hlo,
      State.busValue_push16_hi hw, State.busValue_push16_lo hw, word_hi_lo]
    exact BitVec.add_assoc s.pc 2 1
  · simp only [jumped_sp, push16_sp_add_two]

/-- Settles O29. -/
theorem rtsReturns : Obligations.RtsReturns := ⟨rfl, exec_rts, fun w _ => exec_jsr_rts w⟩

/-! ### BRK and RTI (R203, R204) -/

/-- What the exception entry of BRK pushes: the return address, then the status byte with B set and I as it was (R203). -/
def pushBrk (s : State) : State := push8 s.flags.pushed (push16 (s.pc + 2) s)

/-- The entry after the opcode fetch: three writes, then the two vector reads, accesses 4 and 5 of the step. -/
theorem takeException_retired (s : State) :
    takeException (s.pc + 2) brkVector (retired s s 1 (fetched s 1) 0) =
      let l := s.busValue 4 0xFFFE
      let h := s.busValue 5 0xFFFF
      (retired s ((pushBrk s).setFlags { s.flags with i := true }) 1
        (fetched s 1 ++ [Access.write (stackAddr s.sp) (hi (s.pc + 2)), Access.write (stackAddr (s.sp - 1)) (lo (s.pc + 2)),
          Access.write (stackAddr (s.sp - 2)) s.flags.pushed, Access.read 0xFFFE l, Access.read 0xFFFF h]) 0).setPcTo (word h l) := by
  have hvector : brkVector + 1 = 0xFFFF := by decide
  have hflags : (retired s s 1 (fetched s 1) 0).flags = s.flags := rfl
  rw [takeException_eq _ _ (by decide) (by decide), push16_retired, hflags, push8_retired_push8, push16_sp, hvector, busValue_retired,
    busValue_retired]
  simp [retired, State.setPcTo, State.setFlags, pushBrk, fetched_one, brkVector]

theorem exec_brk (s : State) :
    exec .brk s =
      let l := s.busValue 4 0xFFFE
      let h := s.busValue 5 0xFFFF
      .next (jumped s ((pushBrk s).setFlags { s.flags with i := true }) (word h l)
        (fetched s 1 ++ [Access.write (stackAddr s.sp) (hi (s.pc + 2)), Access.write (stackAddr (s.sp - 1)) (lo (s.pc + 2)),
          Access.write (stackAddr (s.sp - 2)) s.flags.pushed, Access.read 0xFFFE l, Access.read 0xFFFF h]) 7) := by
  have hret : (retired s s 1 (fetched s 1) 0).pc + 1 = s.pc + 2 := BitVec.add_assoc s.pc 1 1
  refine exec_of_jump (f := fun s => takeException (s.pc + 1) brkVector s) rfl rfl ?_
  rw [hret, takeException_retired]

/-- Settles O30. -/
theorem brkEntersHandler : Obligations.BrkEntersHandler := by
  refine fun s => ⟨rfl, ?_⟩
  have hsp : s.sp - 2 - 1 = s.sp - 3 := sub_sub s.sp 2 1
  rw [exec_brk, pushBrk, push8_eq, push16_eq, hsp]
  rfl

theorem exec_rti (s : State) :
    exec .rti s =
      let p := s.busValue 1 (stackAddr (s.sp + 1))
      let l := s.busValue 2 (stackAddr (s.sp + 2))
      let h := s.busValue 3 (stackAddr (s.sp + 3))
      .next (jumped s { s with sp := s.sp + 3, flags := Flags.unpack p } (word h l)
        (fetched s 1 ++ [Access.read (stackAddr (s.sp + 1)) p, Access.read (stackAddr (s.sp + 2)) l,
          Access.read (stackAddr (s.sp + 3)) h]) 6) := by
  refine exec_of_jump (f := fun s => returnFromException s) rfl rfl ?_
  have hsp : (retired s s 1 (fetched s 1) 0).sp = s.sp := rfl
  rw [returnFromException_eq]
  simp only [hsp, busValue_retired]
  rfl

/-! ### BRK, then RTI -/

/-- Bit 4 of the pushed byte is no flag (R14, R16). -/
@[simp] theorem Flags.unpack_pushed (f : Flags) : Flags.unpack f.pushed = f :=
  (Flags.unpack_congr (by simp [Flags.pushed])).trans f.unpack_pack

/-- The first pull takes the status byte's slot, the lowest. -/
theorem pushBrk_sp_add_one (s : State) : (pushBrk s).sp + 1 = s.sp - 2 := by
  rw [pushBrk, push8_sp_add_one, push16_sp]

theorem pushBrk_sp_add_two (s : State) : (pushBrk s).sp + 2 = s.sp - 1 := by
  rw [pushBrk, push8_sp, push16_sp]
  bv_omega

theorem pushBrk_sp_add_three (s : State) : (pushBrk s).sp + 3 = s.sp := by
  rw [pushBrk, push8_sp, push16_sp]
  bv_omega

@[simp] theorem isDevice_pushBrk (s : State) (a : Addr) : (pushBrk s).isDevice a = s.isDevice a := by
  rw [pushBrk, State.isDevice_push8, State.isDevice_push16]

section

variable {s : State} (hw : s.mem.wf = true)

include hw

theorem busValue_pushBrk_status (hd : s.isDevice (stackAddr (s.sp - 2)) = false) (k : Nat) :
    (pushBrk s).busValue k (stackAddr (s.sp - 2)) = s.flags.pushed := by
  rw [← push16_sp (s.pc + 2) s] at hd ⊢
  exact State.busValue_push8_same (push16_wf _ hw) hd k

/-- The push of the status byte is to another slot. -/
theorem busValue_pushBrk_lo (hd : s.isDevice (stackAddr (s.sp - 1)) = false) (k : Nat) :
    (pushBrk s).busValue k (stackAddr (s.sp - 1)) = lo (s.pc + 2) := by
  have hne : s.sp - 1 ≠ (push16 (s.pc + 2) s).sp := by
    rw [push16_sp]
    bv_omega
  rw [pushBrk, State.busValue_push8_ne hne, State.busValue_push16_lo hw hd]

theorem busValue_pushBrk_hi (hd : s.isDevice (stackAddr s.sp) = false) (k : Nat) :
    (pushBrk s).busValue k (stackAddr s.sp) = hi (s.pc + 2) := by
  have hne : s.sp ≠ (push16 (s.pc + 2) s).sp := by
    rw [push16_sp]
    bv_omega
  rw [pushBrk, State.busValue_push8_ne hne, State.busValue_push16_hi hw hd]

/-- RTI pulls the three bytes that BRK pushed. -/
theorem exec_brk_rti (hhi : s.isDevice (stackAddr s.sp) = false) (hlo : s.isDevice (stackAddr (s.sp - 1)) = false)
    (hstatus : s.isDevice (stackAddr (s.sp - 2)) = false) :
    ∃ t u, exec .brk s = .next t ∧ exec .rti t = .next u ∧ u.pc = s.pc + 2 ∧ u.flags = s.flags ∧ u.sp = s.sp := by
  refine ⟨_, _, exec_brk s, exec_rti _, ?_, ?_, ?_⟩
  · simp only [jumped_pc, jumped_sp, setFlags_sp, pushBrk_sp_add_two, pushBrk_sp_add_three, busValue_jumped, State.isDevice_setFlags,
      isDevice_pushBrk, hhi, hlo, State.busValue_setFlags, busValue_pushBrk_hi hw, busValue_pushBrk_lo hw, word_hi_lo]
  · simp only [jumped_flags, jumped_sp, setFlags_sp, pushBrk_sp_add_one, busValue_jumped, State.isDevice_setFlags, isDevice_pushBrk,
      hstatus, State.busValue_setFlags, busValue_pushBrk_status hw, Flags.unpack_pushed]
  · simp only [jumped_sp, setFlags_sp, pushBrk_sp_add_three]

end

/-- Settles O31. -/
theorem rtiReturns : Obligations.RtiReturns := ⟨rfl, exec_rti, fun _ => exec_brk_rti⟩

end Sys2Proof.Machine
end

section
/-! SUPPORT. The class statements of the immediate combinations (spec/47_undocumented.md R228 to R231) and of ANE and LXA (R233, R234): class
immediate, with the bodies of the rules; and the results of ANE that its open constant has no part in. -/

namespace Sys2Proof.Machine

open Sys2Proof.Claim

/-! ### ANC, ASR, ARR, SBX (R228 to R231) -/

/-- Each encoding of ANC carries its opcode byte (R228). -/
theorem opcode_anc {code : Byte} (h : code ∈ Instr.ancCodes) (b : Byte) : (Instr.anc code b).opcode = code := by
  simp [Instr.opcode, Instr.opcode?, h]

theorem ancCodes_inTable : ∀ code ∈ Instr.ancCodes, rowInTable ⟨code, .imm, 2, false⟩ = true := by decide

theorem anc_immClass {code : Byte} (h : code ∈ Instr.ancCodes) :
    ImmClass (.anc code) code fun m s => withC ((s.a &&& m).getLsbD 7) (withA (s.a &&& m) s) :=
  immClass_of (f := ancBody) (opcode_anc h) (fun _ _ => rfl) (htable := ancCodes_inTable code h)

/-- Settles O36: each is class immediate, its body the rule's, flag by flag. -/
theorem immediateCombinations : Obligations.ImmediateCombinations :=
  ⟨fun _ hcode => anc_immClass hcode,
   immClass_of (f := asrBody) (fun _ => rfl) fun _ _ => rfl,
   immClass_of (f := arrBody) (fun _ => rfl) fun _ _ => rfl,
   immClass_of (f := sbxBody) (fun _ => rfl) fun _ _ => rfl⟩

/-! ### ANE and LXA, whatever their constants are (R233, R234) -/

theorem ane_immClass : ImmClass .ane 0x8B fun m s => withA ((s.a ||| Config.aneMagic) &&& s.x &&& m) s :=
  immClass_of (f := aneBody) (fun _ => rfl) fun _ _ => rfl

/-- An operand or X of 0 masks the constant out, and Z and N are those of 0. -/
theorem exec_ane_of_zero {b : Byte} {s : State} (h : b = 0x00 ∨ s.x = 0x00) :
    exec (.ane b) s = .next (retired s (withA 0x00 s) 2 (fetched s 2) 2) := by
  obtain ⟨-, hexec⟩ := ane_immClass b s
  have hmasked : (s.a ||| Config.aneMagic) &&& s.x &&& b = 0x00 := by
    rcases h with rfl | hx
    · exact BitVec.and_zero
    · simp [hx]
  simpa only [hmasked] using hexec

/-- Settles O37: both are class immediate with the constant left open, and ANE with a 0 leaves 0. -/
theorem aneLxaForEveryMagic : Obligations.AneLxaForEveryMagic :=
  ⟨ane_immClass,
   immClass_of (f := lxaBody) (fun _ => rfl) fun _ _ => rfl,
   fun _ _ h => ⟨_, exec_ane_of_zero h, rfl, rfl, rfl⟩⟩

end Sys2Proof.Machine
end

section
/-! SUPPORT. Reset and power-on (spec/70_reset_and_hazards.md R280 to R285): what `reset()` leaves from any state, and that the step
invariant holds of it. -/

namespace Sys2Proof.Machine

/-- R280's values, PC from the RESET vector (R283), and of the state before only the memory, the device regions and the access count. -/
theorem hostReset_eq (s : State) :
    s.hostReset =
      { a := 0x00, x := 0x00, y := 0x00, sp := 0xFD, pc := word (s.busValue 1 0xFFFD) (s.busValue 0 0xFFFC),
        flags := Flags.atReset, run := .running, mem := s.mem, devices := s.devices, busCount := s.busCount + 2,
        accesses := [.read 0xFFFC (s.busValue 0 0xFFFC), .read 0xFFFD (s.busValue 1 0xFFFD)], cycles := 0, cond := .none } := by
  have hnext : resetVector + 1 = 0xFFFD := rfl
  rw [State.hostReset, readWord_eq, hnext]
  rfl

/-- I set, the other five flags clear (decision D2). -/
theorem pack_atReset : Flags.atReset.pack = 0x24 := by decide

/-- With nothing listed in memory both vector bytes read 0x00. -/
theorem powerOn_nil : State.powerOn [] [] = State.reset := hostReset_eq _

/-- `reset()` leaves memory alone and a running core with no condition. -/
theorem hostReset_inv {s : State} (hw : s.mem.wf = true) : s.hostReset.Inv := by
  rw [hostReset_eq]
  exact ⟨hw, rfl⟩

/-- Settles O44: `State.reset` is what `reset()` leaves over an empty memory, which is canonical. -/
theorem resetMeetsInvariant : Obligations.ResetMeetsInvariant := by
  unfold Obligations.ResetMeetsInvariant
  rw [← powerOn_nil]
  exact hostReset_inv rfl

/-- Settles O45. -/
theorem resetValues : Obligations.ResetValues := by
  refine ⟨fun s => ⟨hostReset_eq s, ?_⟩, powerOn_nil, fun _ _ => rfl⟩
  rw [hostReset_eq]
  exact pack_atReset

end Sys2Proof.Machine
end
